-- ==== Sys2Proof/Word.lean ====
section
/-! DEFINITION. The word types of HTB-1 (00_scope.md R8, R10). All values are unsigned, bit 0 is the least significant. -/
namespace Sys2Proof

/-- A bus word, a command word, a 32-bit register or counter (00 R8 `BUS_W`, `FREQ_W`). -/
abbrev Word := BitVec 32

/-- A byte of TREE_MEM, CART or OUT. -/
abbrev Byte := BitVec 8

/-- A symbol, 0..127 (00 R8 `SYM_BITS`). -/
abbrev Sym := BitVec 7

/-- A node index (00 R8 `NODE_SLOTS`: node indices are 8 bits). -/
abbrev Slot := BitVec 8

/-- A byte offset on the block's bus (00 R8 `ADDR_W`). -/
abbrev Offset := BitVec 18

end Sys2Proof
end

