-- ==== Sys2Proof/Config.lean ====
section
/-! DEFINITION. What HTB-1 fixes (00_scope.md R8), the open parameters (R9), and the free values (93 U1, U3). -/
namespace Sys2Proof

/-- The block's three byte memories (10_state.md R56, R57, R58). -/
inductive ByteMem where
  | tree
  | cart
  | out
  deriving DecidableEq, Repr

/-- The open parameters P1 and P2 (00 R9, 92 P1, P2): the sizes of CART and OUT in bytes. The model takes them as an
argument: they stand in State, never change, and a statement over all states holds for every value. -/
structure Params where
  cartBytes : Nat
  outBytes : Nat
  deriving DecidableEq, Repr

/-- The legal values of the parameters (00 R9). -/
abbrev Params.Legal (p : Params) : Prop :=
  (p.cartBytes % 4 = 0 ∧ 8 ≤ p.cartBytes ∧ p.cartBytes ≤ 65536) ∧
  (p.outBytes % 4 = 0 ∧ 4 ≤ p.outBytes ∧ p.outBytes ≤ 65536)

/-- The defaults of 00 R9, which 95_test_vectors.md uses. DESIGN CHOICE, unsafe for a claim about `State.reset` alone
(log 3). -/
def Params.defaults : Params := { cartBytes := 4096, outBytes := 4096 }

namespace Config

/-- What `ID` reads (10 R31): the ASCII bytes "HUF1". -/
@[reducible, simp] def idValue : Word := 0x48554631#32

/-- `MAX_NODES` (00 R8): slot 255 is never allocated. -/
@[reducible, simp] def maxNodes : Nat := 255

/-- `CODE_MAXLEN` (00 R8): the deepest leaf of a tree of at most 128 leaves. -/
@[reducible, simp] def codeMaxLen : Nat := 127

/-- `TREE_BYTES` (00 R8). -/
@[reducible, simp] def treeBytes : Nat := 512

/-- `CART_HDR` (00 R8): bytes of the big-endian bit-count header. -/
@[reducible, simp] def cartHdr : Nat := 4

/-- FREE VALUE (93 U1, 70 R271, log 4): what byte `a` of memory `m` holds after the `n`-th release of reset until
something writes it. "Each byte is an independent draw at reset." Safe: nothing constrains it. -/
opaque powerOnByte (m : ByteMem) (n : Nat) (a : Nat) : Byte

/-- FREE VALUE (92 P3, 93 U3, 70 R286, R287, log 2): how many host steps the environment lets go before the engine's step
on a pending action, when the state's own schedule names none. A number, so finite: weak fairness toward the engine.
Safe: nothing constrains it. -/
opaque engineDelay (draw : Nat) : Nat

end Config
end Sys2Proof
end

