-- ==== Sys2Proof/Machine/State.lean ====
section
/-! DEFINITION. The state of the HTB and of its environment, as plain data (10_state.md), and the state after reset. -/
namespace Sys2Proof.Machine

/-- A slot of the node arena (10 R52). -/
structure Node where
  leaf : Bool
  sym : Sym
  left : Slot
  right : Slot
  nfreq : Word
  deriving DecidableEq, Repr

/-- An entry of the code table (10 R54): `clen` bits, bit `j` of `cbits` the edge taken at depth `j`. -/
structure CodeEntry where
  clen : BitVec 7
  cbits : BitVec 128
  deriving DecidableEq, Repr

/-- The error codes of 60 R240. No reserved code is among them, so none is ever reported (93 U7). -/
inductive ErrCode where
  | noError
  | illegalCmd
  | invalidInput
  | corruptFormat
  | bounds
  | noTree
  | noCodes
  | noCode
  | capacity
  | badPath
  | freqOverflow
  | busyViolation
  deriving DecidableEq, Repr

/-- The CORRUPT_FORMAT details of 60 R241 (46 R214 for the first five, 45 R195 for the last two). -/
inductive CorruptDetail where
  | truncated
  | badMarker
  | badSymbol
  | dupSymbol
  | tooManyNodes
  | cartShortHeader
  | cartShortPayload
  deriving DecidableEq, Repr

/-- `PENDING` (10 R59): nothing, the internal INIT action (70 R271), or the word the host wrote to `CMD`.
`STATUS.BUSY` is 1 exactly when this is not `idle` (log 8). -/
inductive Pending where
  | idle
  | init
  | command (w : Word)
  deriving DecidableEq, Repr

/-- What a bus transaction returns (20 R81). -/
inductive BusResp where
  | word (w : Word)
  | ok
  | busErr
  deriving DecidableEq, Repr

/-- A host operation: the two primitives and WAIT of 30 R124 and R125, and the two levels of the pin `rst_n`
(20 R81, 70 R270; log 10). -/
inductive HostOp where
  | write (a : Offset) (d : Word)
  | read (a : Offset)
  | wait
  | rstLow
  | rstHigh
  deriving DecidableEq, Repr

/-- The host agent (10 R34, 30 R124, R125): its program, the host program index, the words the program recorded (oldest
first), and the response of its latest transaction (log 15). -/
structure HostAgent where
  program : List HostOp
  index : Nat
  recorded : List BusResp
  lastResp : BusResp
  deriving DecidableEq, Repr

/-- The schedule P3 (92 P3; log 2). The head of `queue` is how many more host steps go before the engine's step on the
pending action; with the queue empty the free value `Config.engineDelay draws` decides. The model's own field. -/
structure Schedule where
  queue : List Nat
  draws : Nat
  deriving DecidableEq, Repr

/-- A byte memory: the bytes written since reset, as (address, byte) cells in strictly rising address order. A byte
not listed reads as its power-on draw (93 U1; log 4). -/
abbrev Memory := List Host.Cell

/-- Every piece of state the spec gives the machine (10_state.md), the pin `rst_n`, and the environment. -/
structure State where
  /-- `PENDING` and `STATUS.BUSY` (10 R59). -/
  pending : Pending
  /-- `STATUS.TREE_VALID` (10 R62). -/
  treeValid : Bool
  /-- `STATUS.CODES_VALID` (10 R63). -/
  codesValid : Bool
  /-- `ERR.FIRST_CODE` (10 R37). -/
  errFirst : ErrCode
  /-- `ERR.FIRST_OP` (10 R37). -/
  errFirstOp : Byte
  /-- `ERR.LAST_CODE` (10 R37). -/
  errLast : ErrCode
  /-- `CTRL.DONE_IE` (10 R38). -/
  doneIe : Bool
  /-- `CTRL.ERR_IE` (10 R38). -/
  errIe : Bool
  /-- `IRQ_STAT.DONE` (10 R39). -/
  irqDone : Bool
  /-- `RESULT` (10 R40). -/
  result : Word
  /-- `FREQ_TOTAL` (10 R41). -/
  freqTotal : Word
  /-- `DROP_CNT` (10 R42). -/
  dropCnt : Word
  /-- `DISTINCT` (10 R43). -/
  distinct : BitVec 8
  /-- `ROOT` (10 R44). -/
  root : Slot
  /-- `NODE_CNT` (10 R45). -/
  nodeCnt : BitVec 9
  /-- `TREE_LEN` (10 R46). -/
  treeLen : BitVec 10
  /-- `CART_LEN` (10 R47). -/
  cartLen : BitVec 17
  /-- `OUT_LEN` (10 R48). -/
  outLen : BitVec 17
  /-- `TREE_USED` (10 R49). -/
  treeUsed : BitVec 10
  /-- `FREQ[0..127]` (10 R51). -/
  freq : Vector Word 128
  /-- `NODE[0..255]` (10 R52). -/
  nodes : Vector Node 256
  /-- `CODE[0..127]` (10 R54). -/
  code : Vector CodeEntry 128
  /-- `HEAP[0..127]` (10 R60). -/
  heap : Vector Slot 128
  /-- `HSIZE` (10 R60). -/
  hsize : Nat
  /-- `TREE_MEM` (10 R56). -/
  treeMem : Memory
  /-- `CART` (10 R57). -/
  cart : Memory
  /-- `OUT` (10 R58). -/
  out : Memory
  /-- The open parameters `CART_BYTES` and `OUT_BYTES` (00 R9). -/
  params : Params
  /-- The level of the pin `rst_n` (70 R270): true is high, the block runs. -/
  rstN : Bool
  /-- How many times `rst_n` has risen since the model's start: names the draw of the power-on bytes (log 4). -/
  epoch : Nat
  /-- The schedule (92 P3). -/
  sched : Schedule
  /-- The host agent (10 R30, R34). -/
  host : HostAgent
  deriving DecidableEq, Repr

/-- Why the machine stops with a fault. No fault can occur in a state the spec allows (Safety.lean, `CountInv` and `TreeInv`). -/
inductive Fault where
  /-- Raised by CODEGEN and SER: following LEFT and RIGHT from ROOT meets a path of more than 127 edges or more than 255
  nodes although TREE_VALID is 1. 10 R61 and R62 say it never happens. Safe (log 12). -/
  | walkOverrun
  /-- Raised by BUILD: `poll` with `HSIZE = 0`, which 42 R162 excludes ("called only with HSIZE >= 1"); only where
  DISTINCT is not 0 and every FREQ is 0, which 10 R43 excludes. Safe (log 13). -/
  | emptyHeap
  deriving DecidableEq, Repr

/-- Why the machine gives a step no meaning. -/
inductive Refusal where
  /-- Raised by no instruction of this model: every command has its meaning. Safe. -/
  | notModelled (mnemonic : String)
  /-- Raised by a host read, write or WAIT while `rst_n` is low: "refused, not given a value" (70 R285, 93 U2).
  Safe (log 10). -/
  | accessInReset
  deriving DecidableEq, Repr

/-- The all-zero node slot (10 R52: an unallocated slot is all-zero). -/
def Node.zero : Node := { leaf := false, sym := 0#7, left := 0#8, right := 0#8, nfreq := 0#32 }

/-- The entry of a symbol with no code (10 R54). -/
def CodeEntry.zero : CodeEntry := { clen := 0#7, cbits := 0#128 }

/-- The host agent before any program is loaded (log 9). -/
def HostAgent.empty : HostAgent := { program := [], index := 0, recorded := [], lastResp := .ok }

/-- The machine right after reset release, for any parameters: 10 R65, column "while in reset init", and 70 R270. The
tables, not readable then, are zero (log 7); HEAP and HSIZE, don't care, are zero (log 5); the byte memories list nothing,
so every byte is its draw (log 4). -/
def State.resetWith (p : Params) : State where
  pending := .init
  treeValid := false
  codesValid := false
  errFirst := .noError
  errFirstOp := 0#8
  errLast := .noError
  doneIe := false
  errIe := false
  irqDone := false
  result := 0#32
  freqTotal := 0#32
  dropCnt := 0#32
  distinct := 0#8
  root := 0#8
  nodeCnt := 0#9
  treeLen := 0#10
  cartLen := 0#17
  outLen := 0#17
  treeUsed := 0#10
  freq := Vector.replicate 128 0#32
  nodes := Vector.replicate 256 Node.zero
  code := Vector.replicate 128 CodeEntry.zero
  heap := Vector.replicate 128 0#8
  hsize := 0
  treeMem := []
  cart := []
  out := []
  params := p
  rstN := true
  epoch := 0
  sched := { queue := [], draws := 0 }
  host := HostAgent.empty

/-- The machine right after reset with the default parameters (00 R9; log 3). -/
def State.reset : State := State.resetWith Params.defaults

end Sys2Proof.Machine
end

