-- ==== Sys2Proof/Machine/Ops.lean ====
section
/-! DEFINITION. The named operations over memory, registers and tables, and the two completions of a command
(60_exceptions.md R244, R245), which every command shares. -/
namespace Sys2Proof.Machine

/-! ### Byte memories -/

/-- The byte written at `a` since reset, if any. -/
def Memory.peek : Memory → Nat → Option Byte
  | [], _ => none
  | (b, v) :: rest, a => if a = b then some v else Memory.peek rest a

/-- Writes byte `v` at `a`, keeping the cells in strictly rising address order. -/
def Memory.poke : Memory → Nat → Byte → Memory
  | [], a, v => [(a, v)]
  | (b, w) :: rest, a, v =>
    if a < b then (a, v) :: (b, w) :: rest
    else if a = b then (a, v) :: rest
    else (b, w) :: Memory.poke rest a v

/-- Writes `v` to the `n` bytes from `a` on (the zeroing loop of 40 R143). -/
def Memory.fill (m : Memory) (a n : Nat) (v : Byte) : Memory :=
  m.filter (fun c => decide (c.1 < a)) ++ (List.range n).map (fun k => (a + k, v)) ++
    m.filter (fun c => decide (a + n ≤ c.1))

/-- Writes the bytes `bs` from `a` on, in order. -/
def Memory.pokes : Memory → Nat → List Byte → Memory
  | m, _, [] => m
  | m, a, v :: bs => Memory.pokes (m.poke a v) (a + 1) bs

/-- The canonical form of a byte memory of `size` bytes: addresses strictly rising and below the size. -/
abbrev Memory.wf (size : Nat) (m : Memory) : Prop :=
  m.Pairwise (fun x y => x.1 < y.1) ∧ ∀ c ∈ m, c.1 < size

/-- How many bytes a memory has (10 R56, R57, R58). -/
def memSize (p : Params) : ByteMem → Nat
  | .tree => Config.treeBytes
  | .cart => p.cartBytes
  | .out => p.outBytes

/-- The cells of a byte memory. -/
def State.mem (s : State) : ByteMem → Memory
  | .tree => s.treeMem
  | .cart => s.cart
  | .out => s.out

/-- Replaces the cells of a byte memory. -/
def State.setMem (s : State) : ByteMem → Memory → State
  | .tree, m => { s with treeMem := m }
  | .cart, m => { s with cart := m }
  | .out, m => { s with out := m }

/-- `MemRead(M, a)` (00 R11). A byte nothing has written since reset is its power-on draw (93 U1). -/
def State.memRead (s : State) (m : ByteMem) (a : Nat) : Byte :=
  ((s.mem m).peek a).getD (Config.powerOnByte m s.epoch a)

/-- `MemWrite(M, a, v)` (00 R11). -/
def State.memWrite (s : State) (m : ByteMem) (a : Nat) (v : Byte) : State :=
  s.setMem m ((s.mem m).poke a v)

/-- `MemWrite` of a run of bytes from `a` on. -/
def State.memWrites (s : State) (m : ByteMem) (a : Nat) (bs : List Byte) : State :=
  s.setMem m ((s.mem m).pokes a bs)

/-! ### The packed bit buffer in CART (40 R140 to R142) -/

/-- `ceil8(n)` (00 R10): the number of bytes that hold `n` bits. -/
def ceil8 (n : Nat) : Nat := (n + 7) / 8

/-- The CART byte that holds stream bit `i` (40 R140). -/
def bitAddr (i : Nat) : Nat := 4 + i / 8

/-- `v` with bit `p` replaced by `b`; the other bits are unchanged (40 R140). -/
def putBit (v : Byte) (p : Nat) (b : Bool) : Byte :=
  (v &&& ~~~(1#8 <<< p)) ||| ((BitVec.ofBool b).setWidth 8 <<< p)

/-- `getbit(i)` (40 R140): LSB-first. -/
def State.getbit (s : State) (i : Nat) : Bool :=
  (s.memRead .cart (bitAddr i)).getLsbD (i % 8)

/-- `setbit(i, b)` (40 R140). -/
def State.setbit (s : State) (i : Nat) (b : Bool) : State :=
  s.memWrite .cart (bitAddr i) (putBit (s.memRead .cart (bitAddr i)) (i % 8) b)

/-- `setbit(n + j, f j)` for `j` from `j` on, `len` bits (the append loop of 44 R185). -/
def State.setbits (s : State) (n : Nat) (f : Nat → Bool) : (len : Nat) → (j : Nat) → State
  | 0, _ => s
  | len + 1, j => (s.setbit (n + j) (f j)).setbits n f len (j + 1)

/-- `BE32()` (40 R141): the declared bit count, big-endian in CART[0..3]. -/
def State.be32 (s : State) : Word :=
  s.memRead .cart 0 ++ s.memRead .cart 1 ++ s.memRead .cart 2 ++ s.memRead .cart 3

/-- `setHdr(n)` (40 R141). -/
def State.setHdr (s : State) (n : Word) : State :=
  s.memWrites .cart 0 [n.extractLsb' 24 8, n.extractLsb' 16 8, n.extractLsb' 8 8, n.extractLsb' 0 8]

/-! ### Tables -/

/-- `FREQ[y]` (10 R51). -/
def State.freqAt (s : State) (y : Sym) : Word := s.freq[y.toNat]'(y.isLt)

/-- `CODE[y]` (10 R54). -/
def State.codeAt (s : State) (y : Sym) : CodeEntry := s.code[y.toNat]'(y.isLt)

/-- `NODE[i]` (10 R52). -/
def nodeAt (nodes : Vector Node 256) (i : Slot) : Node := nodes[i.toNat]'(i.isLt)

/-- `NODE[i] <- n`. -/
def setNode (nodes : Vector Node 256) (i : Slot) (n : Node) : Vector Node 256 := nodes.set i.toNat n i.isLt

/-- The all-zero FREQ table. -/
def zeroFreq : Vector Word 128 := Vector.replicate 128 0#32

/-- The all-zero node arena. -/
def zeroNodes : Vector Node 256 := Vector.replicate 256 Node.zero

/-- The code table with no code. -/
def zeroCode : Vector CodeEntry 128 := Vector.replicate 128 CodeEntry.zero

/-- A leaf slot (10 R53: LEFT = RIGHT = 0). -/
def Node.mkLeaf (y : Sym) (f : Word) : Node := { leaf := true, sym := y, left := 0#8, right := 0#8, nfreq := f }

/-- An internal slot (10 R53: SYM = 0). -/
def Node.mkInternal (f : Word) (l r : Slot) : Node := { leaf := false, sym := 0#7, left := l, right := r, nfreq := f }

/-! ### Completion: how every command ends (60 R244, R245, R250) -/

/-- `PENDING[7:0]`, the opcode a failing command records (60 R245). With no command pending, which 60 R245 excludes, 0
(log 18). -/
def State.pendingOp (s : State) : Byte :=
  match s.pending with
  | .idle => 0#8
  | .init => 0#8
  | .command w => w.extractLsb' 0 8

/-- `done(r)` (60 R244): RESULT, LAST_CODE, IRQ_STAT.DONE, BUSY; FIRST_CODE and FIRST_OP stay. -/
def State.done (s : State) (r : Word) : State :=
  { s with result := r, errLast := .noError, irqDone := true, pending := .idle }

/-- `raise E(d)` (60 R245): the failed completion. FIRST_CODE and FIRST_OP keep the first error since the last clear. -/
def State.raise (s : State) (e : ErrCode) (d : Word) : State :=
  { s with
    result := d
    errLast := e
    errFirst := if s.errFirst = .noError then e else s.errFirst
    errFirstOp := if s.errFirst = .noError then s.pendingOp else s.errFirstOp
    irqDone := true
    pending := .idle }

/-- The number a CORRUPT_FORMAT failure writes to RESULT (60 R241). -/
def CorruptDetail.word : CorruptDetail → Word
  | .truncated => 1#32
  | .badMarker => 2#32
  | .badSymbol => 3#32
  | .dupSymbol => 4#32
  | .tooManyNodes => 5#32
  | .cartShortHeader => 6#32
  | .cartShortPayload => 7#32

/-- Recording a busy violation (60 R249): the first error only; nothing else changes. -/
def State.recordBusyViolation (s : State) : State :=
  { s with
    errFirst := if s.errFirst = .noError then .busyViolation else s.errFirst
    errFirstOp := if s.errFirst = .noError then 0xFF#8 else s.errFirstOp }

/-- Acknowledging an error (60 R251, 10 R37): any write to ERR clears FIRST_CODE and FIRST_OP. -/
def State.clearFirstError (s : State) : State :=
  { s with errFirst := .noError, errFirstOp := 0#8 }

/-! ### Reset -/

/-- The rising edge of `rst_n` (70 R270, 10 R65): every register at its reset value, PENDING = INIT, the byte memories
drawn anew (93 U1). The tables keep what they hold until INIT clears them (70 R271), as do HEAP and HSIZE, which nothing
reads; the parameters, the schedule and the host agent are not the block's. -/
def State.release (s : State) : State :=
  { State.resetWith s.params with
    freq := s.freq, nodes := s.nodes, code := s.code, heap := s.heap, hsize := s.hsize,
    epoch := s.epoch + 1, sched := s.sched, host := s.host }

/-- The INIT action (70 R271): clears FREQ, NODE and CODE, then BUSY; rewrites no register, no byte memory, and sets
neither DONE nor RESULT. -/
def State.initAction (s : State) : State :=
  { s with freq := zeroFreq, nodes := zeroNodes, code := zeroCode, pending := .idle }

end Sys2Proof.Machine
end

