-- ==== Sys2Proof/Machine/Flags.lean ====
section
/-! DEFINITION. The status bits and words: STATUS, ERR, CTRL, IRQ_STAT and the interrupt line (10_state.md R35 to R39,
60_exceptions.md R240, R252 to R255). There are no condition codes (10 R64). -/
namespace Sys2Proof.Machine

/-- The code of an error (60 R240). -/
def ErrCode.byte : ErrCode → Byte
  | .noError => 0x00#8
  | .illegalCmd => 0x01#8
  | .invalidInput => 0x02#8
  | .corruptFormat => 0x03#8
  | .bounds => 0x04#8
  | .noTree => 0x05#8
  | .noCodes => 0x06#8
  | .noCode => 0x07#8
  | .capacity => 0x08#8
  | .badPath => 0x09#8
  | .freqOverflow => 0x0A#8
  | .busyViolation => 0x0B#8

/-- `STATUS.BUSY` (10 R35, R59): a command or the reset initialisation is pending. -/
def State.busy (s : State) : Bool := decide (s.pending ≠ .idle)

/-- `STATUS.ERR_ANY` (10 R35). -/
def State.errAny (s : State) : Bool := decide (s.errFirst.byte ≠ 0#8)

/-- The `irq` output (60 R255): a level, a function of state. -/
def State.irq (s : State) : Bool :=
  (s.doneIe && s.irqDone) || (s.errIe && s.errAny)

/-- Bit 0 of a word. -/
def bit0 (b : Bool) : Word := (BitVec.ofBool b).setWidth 32

/-- `STATUS` (10 R35): BUSY [0], TREE_VALID [1], CODES_VALID [2], ERR_ANY [3], IRQ [4], the rest 0. -/
def State.statusWord (s : State) : Word :=
  bit0 s.busy ||| (bit0 s.treeValid <<< 1) ||| (bit0 s.codesValid <<< 2) ||| (bit0 s.errAny <<< 3) |||
    (bit0 s.irq <<< 4)

/-- `ERR` (10 R37): FIRST_CODE [7:0], FIRST_OP [15:8], LAST_CODE [23:16], the rest 0. -/
def State.errWord (s : State) : Word := 0#8 ++ s.errLast.byte ++ s.errFirstOp ++ s.errFirst.byte

/-- `CTRL` (10 R38): DONE_IE [0], ERR_IE [1], the rest 0. -/
def State.ctrlWord (s : State) : Word := bit0 s.doneIe ||| (bit0 s.errIe <<< 1)

end Sys2Proof.Machine
end

