-- ==== Sys2Proof/Machine/Operands.lean ====
section
/-! DEFINITION. The operand forms of the commands (30_encoding.md R112 to R118) and the checks on them. Formats: N none;
C a character; K a bit count; S a bit index and a bit; G a bit index. -/
namespace Sys2Proof.Machine

/-- Format C (30 R116): a character below 128 is a symbol; any other is out of range and dropped (00 R14). -/
def charSym (c : Nat) : Option Sym := if c < 128 then some (BitVec.ofNat 7 c) else none

/-- Format K (30 R117) and 40 R142: a buffer of `n` bits fits in CART. -/
def fitsCart (p : Params) (n : Nat) : Bool := decide (4 + ceil8 n ≤ p.cartBytes)

/-- Formats S and G (30 R114, R115) and 40 R144: bit `i` is below the declared count and its byte is in CART. -/
def State.bitInBounds (s : State) (i : Nat) : Bool :=
  decide (i < s.be32.toNat) && decide (bitAddr i < s.params.cartBytes)

end Sys2Proof.Machine
end

