-- ==== Sys2Proof/Machine/BitBuffer.lean ====
section
/-! DEFINITION. The BitBuffer commands BB_CREATE, BB_SET and BB_GET (40_bitbuffer.md). -/
namespace Sys2Proof.Machine

/-- The zeroed buffer of `n` bits (40 R143): the whole payload is zeroed, then the header and CART_LEN are set. -/
def State.createBuffer (s : State) (n : Nat) : State :=
  let z := s.setMem .cart ((s.mem .cart).fill 4 (s.params.cartBytes - 4) 0#8)
  { z.setHdr (BitVec.ofNat 32 n) with cartLen := BitVec.ofNat 17 (4 + ceil8 n) }

/-- BB_CREATE (40 R143): CAPACITY before any write; RESULT is the storage-unit length. -/
def execBbCreate (n : Nat) (s : State) : Host.Outcome State Fault Refusal :=
  if fitsCart s.params n then .next ((s.createBuffer n).done (BitVec.ofNat 32 (ceil8 n)))
  else .next (s.raise .capacity 0#32)

/-- BB_SET (40 R144): one bit below the declared count, else BOUNDS with no write. -/
def execBbSet (i : Nat) (b : Bool) (s : State) : Host.Outcome State Fault Refusal :=
  .next (if s.bitInBounds i then (s.setbit i b).done 0#32 else s.raise .bounds 0#32)

/-- BB_GET (40 R145): RESULT is the bit, 0 or 1, else BOUNDS. -/
def execBbGet (i : Nat) (s : State) : Host.Outcome State Fault Refusal :=
  .next (if s.bitInBounds i then s.done (bit0 (s.getbit i)) else s.raise .bounds 0#32)

end Sys2Proof.Machine
end

