-- ==== Sys2Proof/Machine/TreeWalk.lean ====
section
/-! DEFINITION. The tree that NODE holds from ROOT (00_scope.md R13, 10_state.md R62), which the pre-order walks of CODEGEN
and SER traverse (43 R175, 46 R211). -/
namespace Sys2Proof.Machine

/-- A Huffman tree (00 R13), without slot numbers and frequencies: no walk reads them (46 R217). -/
inductive Tree where
  | leaf (sym : Sym)
  | node (l r : Tree)
  deriving DecidableEq, Repr

/-- How many nodes a tree has. -/
def Tree.size : Tree → Nat
  | .leaf _ => 1
  | .node l r => 1 + l.size + r.size

/-- The leaf symbols, left to right. -/
def Tree.symbols : Tree → List Sym
  | .leaf y => [y]
  | .node l r => l.symbols ++ r.symbols

/-- The tree below slot `i`, following LEFT and RIGHT; `none` where a path has `fuel` edges or more. -/
def readTree (nodes : Vector Node 256) : (fuel : Nat) → (i : Slot) → Option Tree
  | 0, _ => none
  | fuel + 1, i =>
    if (nodeAt nodes i).leaf then some (.leaf (nodeAt nodes i).sym)
    else
      match readTree nodes fuel (nodeAt nodes i).left, readTree nodes fuel (nodeAt nodes i).right with
      | some l, some r => some (.node l r)
      | _, _ => none

/-- The current tree (10 R62): every leaf at depth at most 127, at most 255 nodes. `none` where NODE holds no such tree,
which R62 excludes while TREE_VALID is 1 (log 12). -/
def State.tree? (s : State) : Option Tree :=
  match readTree s.nodes (Config.codeMaxLen + 1) s.root with
  | some t => if t.size ≤ Config.maxNodes then some t else none
  | none => none

end Sys2Proof.Machine
end

