-- ==== Sys2Proof/Machine/CodeTable.lean ====
section
/-! DEFINITION. CODEGEN (43_codetable.md). -/
namespace Sys2Proof.Machine

/-- `walk(i, P, L)` of 43 R175 as the list of its CODE writes in order: path bits `p`, depth `d`. A leaf at depth 0 has the
one-bit code 1 (43 R176). -/
def Tree.codes : Tree → (p : BitVec 128) → (d : Nat) → List (Sym × CodeEntry)
  | .leaf y, p, d =>
    [(y, if d = 0 then { clen := 1#7, cbits := 1#128 } else { clen := BitVec.ofNat 7 d, cbits := p })]
  | .node l r, p, d => l.codes p (d + 1) ++ r.codes (p ||| (1#128 <<< d)) (d + 1)

/-- `CODE[y] <- e` for each pair in order. -/
def writeCodes : List (Sym × CodeEntry) → Vector CodeEntry 128 → Vector CodeEntry 128
  | [], v => v
  | (y, e) :: rest, v => writeCodes rest (v.set y.toNat e y.isLt)

/-- The code table of a tree (43 R175): every symbol not in it has CLEN 0. -/
def Tree.codeTable (t : Tree) : Vector CodeEntry 128 := writeCodes (t.codes 0#128 0) zeroCode

/-- CODEGEN (43 R175): NO_TREE before any write; RESULT is the number of codes. -/
def execCodegen (s : State) : Host.Outcome State Fault Refusal :=
  if s.treeValid then
    match s.tree? with
    | none => .fault .walkOverrun
    | some t =>
      .next ({ s with code := t.codeTable, codesValid := true }.done (BitVec.ofNat 32 (t.codes 0#128 0).length))
  else .next (s.raise .noTree 0#32)

end Sys2Proof.Machine
end

