-- ==== Sys2Proof/Machine/Control.lean ====
section
/-! DEFINITION. The control commands NOP and SRST (47_control.md), and illegal words (30_encoding.md R120). -/
namespace Sys2Proof.Machine

/-- NOP (47 R230): `done(0)` and nothing else. -/
def execNop (s : State) : Host.Outcome State Fault Refusal := .next (s.done 0#32)

/-- What SRST clears (47 R231): the tables, the counters, the tree, the validity flags, the length registers and the first
error. CTRL and the byte memories stay. -/
def State.softReset (s : State) : State :=
  { s with
    freq := zeroFreq, code := zeroCode, nodes := zeroNodes
    freqTotal := 0#32, dropCnt := 0#32, distinct := 0#8
    root := 0#8, nodeCnt := 0#9
    treeValid := false, codesValid := false
    treeLen := 0#10, cartLen := 0#17, outLen := 0#17, treeUsed := 0#10
    errFirst := .noError, errFirstOp := 0#8 }

/-- SRST (47 R231). -/
def execSrst (s : State) : Host.Outcome State Fault Refusal := .next (s.softReset.done 0#32)

/-- An illegal word (30 R110, R120, R121): the command fails with ILLEGAL_CMD, detail 0, and changes nothing else. -/
def execIllegal (s : State) : Host.Outcome State Fault Refusal := .next (s.raise .illegalCmd 0#32)

end Sys2Proof.Machine
end

