-- ==== Sys2Proof/Machine/Decoder.lean ====
section
/-! DEFINITION. DECODE (45_decoder.md). -/
namespace Sys2Proof.Machine

/-- `emit(y)` (45 R195): the symbol goes to OUT[k], bit 7 zero; CAPACITY when OUT is full. -/
def emitSym (p : Params) (y : Sym) (k : Nat) (out : Memory) : Option Memory :=
  if k = p.outBytes then none else some (out.poke k (y.setWidth 8))

/-- The bit loop of DECODE (45 R195, R196, R197): `left` bits to go from stream bit `i`, at slot `pos`, with `k` symbols
emitted into `out`. The OUT cells it leaves, and the symbol count or the error it meets first. -/
def decodeLoop (s : State) : (left : Nat) → (i : Nat) → (pos : Slot) → (k : Nat) → Memory →
    Memory × Except ErrCode Nat
  | 0, _, _, k, out => (out, .ok k)
  | left + 1, i, pos, k, out =>
    if (nodeAt s.nodes s.root).leaf then
      if s.getbit i then
        match emitSym s.params (nodeAt s.nodes s.root).sym k out with
        | none => (out, .error .capacity)
        | some out' => decodeLoop s left (i + 1) pos (k + 1) out'
      else (out, .error .badPath)
    else
      let next := if s.getbit i then (nodeAt s.nodes pos).right else (nodeAt s.nodes pos).left
      if (nodeAt s.nodes next).leaf then
        match emitSym s.params (nodeAt s.nodes next).sym k out with
        | none => (out, .error .capacity)
        | some out' => decodeLoop s left (i + 1) s.root (k + 1) out'
      else decodeLoop s left (i + 1) next k out

/-- `fail(E, d)` of 45 R195: OUT_LEN is 0 and the command fails. -/
def State.failDecode (s : State) (e : ErrCode) (d : Word) : State := { s with outLen := 0#17 }.raise e d

/-- The artifact bytes DECODE may use (45 R195, 10 R47): `min(CART_LEN, CART_BYTES)`. -/
def State.cartUsed (s : State) : Nat := min s.cartLen.toNat s.params.cartBytes

/-- What DECODE leaves once the walk is over: OUT keeps what was emitted even when it fails (45 R195). -/
def State.finishDecode (s : State) : Memory × Except ErrCode Nat → State
  | (out, .ok k) => { s with out := out, outLen := BitVec.ofNat 17 k }.done (BitVec.ofNat 32 k)
  | (out, .error e) => { s with out := out }.failDecode e 0#32

/-- DECODE (45 R195): NO_TREE, then details 6 and 7, then the walk; RESULT is the number of symbols. CODES_VALID is not
needed. -/
def execDecode (s : State) : Host.Outcome State Fault Refusal :=
  .next (
    if s.treeValid = false then s.failDecode .noTree 0#32
    else if s.cartUsed < 4 then s.failDecode .corruptFormat CorruptDetail.cartShortHeader.word
    else if s.cartUsed < 4 + ceil8 s.be32.toNat then s.failDecode .corruptFormat CorruptDetail.cartShortPayload.word
    else s.finishDecode (decodeLoop s s.be32.toNat 0 s.root 0 s.out))

end Sys2Proof.Machine
end

