-- ==== Sys2Proof/Machine/Encoder.lean ====
section
/-! DEFINITION. ENC_CHAR (44_encoder.md). -/
namespace Sys2Proof.Machine

/-- Appends a code to the buffer (44 R185): its bits at stream positions `n ..`, code bit 0 first, then the header and
CART_LEN. All sums are on naturals. -/
def State.appendCode (s : State) (e : CodeEntry) : State :=
  let n := s.be32.toNat
  let len := e.clen.toNat
  { (s.setbits n e.cbits.getLsbD len 0).setHdr (BitVec.ofNat 32 (n + len)) with
    cartLen := BitVec.ofNat 17 (4 + ceil8 (n + len)) }

/-- ENC_CHAR (44 R185): out of range succeeds and changes nothing; then NO_CODES, NO_CODE and CAPACITY, in this order and
before any write; RESULT is the new declared bit count. -/
def execEncChar (c : Nat) (s : State) : Host.Outcome State Fault Refusal :=
  match charSym c with
  | none => .next (s.done s.be32)
  | some y =>
    .next (
      if s.codesValid = false then s.raise .noCodes 0#32
      else if (s.codeAt y).clen = 0#7 then s.raise .noCode 0#32
      else if fitsCart s.params (s.be32.toNat + (s.codeAt y).clen.toNat) then
        (s.appendCode (s.codeAt y)).done (BitVec.ofNat 32 (s.be32.toNat + (s.codeAt y).clen.toNat))
      else s.raise .capacity 0#32)

end Sys2Proof.Machine
end

