-- ==== Sys2Proof/Machine/Frequency.lean ====
section
/-! DEFINITION. The FrequencyTable commands FREQ_CLR and FREQ_ADD (41_frequency.md). -/
namespace Sys2Proof.Machine

/-- FREQ_CLR (41 R150): the counts only; the tree and the codes stay. -/
def execFreqClr (s : State) : Host.Outcome State Fault Refusal :=
  .next ({ s with freq := zeroFreq, freqTotal := 0#32, dropCnt := 0#32, distinct := 0#8 }.done 0#32)

/-- An out-of-range character is dropped and counted in DROP_CNT, which saturates (10 R42, 41 R151). -/
def State.dropChar (s : State) : State :=
  { s with dropCnt := if s.dropCnt = 0xFFFFFFFF#32 then s.dropCnt else s.dropCnt + 1#32 }

/-- Counting one occurrence of a symbol (41 R151): DISTINCT rises on the first occurrence only. -/
def State.countSym (s : State) (y : Sym) : State :=
  { s with
    distinct := if s.freqAt y = 0#32 then s.distinct + 1#8 else s.distinct
    freq := s.freq.set y.toNat (s.freqAt y + 1#32) y.isLt
    freqTotal := s.freqTotal + 1#32 }

/-- FREQ_ADD (41 R151): out of range is dropped; a full total fails FREQ_OVERFLOW before any write; RESULT is the new
count. -/
def execFreqAdd (c : Nat) (s : State) : Host.Outcome State Fault Refusal :=
  match charSym c with
  | none => .next (s.dropChar.done 0#32)
  | some y =>
    if s.freqTotal = 0xFFFFFFFF#32 then .next (s.raise .freqOverflow 0#32)
    else .next ((s.countSym y).done ((s.countSym y).freqAt y))

end Sys2Proof.Machine
end

