-- ==== Sys2Proof/Machine/TreeBuilder.lean ====
section
/-! DEFINITION. The priority queue and BUILD (42_tree_builder.md). -/
namespace Sys2Proof.Machine

/-- BUILD's working state: the arena, NODE_CNT, and the queue HEAP with HSIZE (42 R160 to R166). -/
structure Builder where
  nodes : Vector Node 256
  cnt : Nat
  heap : Vector Slot 128
  hsize : Nat
  deriving DecidableEq, Repr

/-- `HEAP[k]` (10 R60). -/
def heapAt (h : Vector Slot 128) (k : Nat) : Slot := h[k % 128]'(Nat.mod_lt k (by decide))

/-- `HEAP[k] <- x`. -/
def heapSet (h : Vector Slot 128) (k : Nat) (x : Slot) : Vector Slot 128 :=
  h.set (k % 128) x (Nat.mod_lt k (by decide))

/-- `NFREQ[x]`, the queue's only key (42 R160). -/
def nodeKey (nodes : Vector Node 256) (x : Slot) : Nat := (nodeAt nodes x).nfreq.toNat

/-- The sift-up loop of `offer` (42 R161) from position `k`; `fuel` at least `k`, since `k` falls at every turn. An equal
parent stays above. -/
def siftUp (key : Slot → Nat) (x : Slot) : (fuel : Nat) → (k : Nat) → Vector Slot 128 → Vector Slot 128
  | 0, k, h => heapSet h k x
  | fuel + 1, k, h =>
    if k = 0 then heapSet h k x
    else
      let p := (k - 1) / 2
      if key x ≥ key (heapAt h p) then heapSet h k x
      else siftUp key x fuel p (heapSet h k (heapAt h p))

/-- `offer(x)` (42 R161). -/
def Builder.offer (b : Builder) (x : Slot) : Builder :=
  { b with heap := siftUp (nodeKey b.nodes) x b.hsize b.hsize b.heap, hsize := b.hsize + 1 }

/-- The child that the sift-down loop compares with: the left one wins a tie (42 R162). -/
def lesserChild (key : Slot → Nat) (n k : Nat) (h : Vector Slot 128) : Nat :=
  let c := 2 * k + 1
  if c + 1 < n ∧ key (heapAt h c) > key (heapAt h (c + 1)) then c + 1 else c

/-- The sift-down loop of `poll` (42 R162) in a heap of `n` entries from position `k`; `fuel` at least `n`, since `k` rises
at every turn and the loop ends once `k` is `n div 2`. The moved entry stops above an equal child. -/
def siftDown (key : Slot → Nat) (x : Slot) (n : Nat) : (fuel : Nat) → (k : Nat) → Vector Slot 128 → Vector Slot 128
  | 0, k, h => heapSet h k x
  | fuel + 1, k, h =>
    if k < n / 2 then
      let c := lesserChild key n k h
      if key x ≤ key (heapAt h c) then heapSet h k x
      else siftDown key x n fuel c (heapSet h k (heapAt h c))
    else heapSet h k x

/-- `poll()` (42 R162), called only with `HSIZE >= 1`: the top entry, and the queue without it. -/
def Builder.poll (b : Builder) : Slot × Builder :=
  let n := b.hsize - 1
  let x := heapAt b.heap n
  (heapAt b.heap 0,
    { b with
      hsize := n
      heap := if n > 0 then siftDown (nodeKey b.nodes) x n n 0 b.heap else b.heap })

/-- A new leaf in slot NODE_CNT, offered (42 R163, R166). -/
def Builder.addLeaf (b : Builder) (y : Sym) (f : Word) : Builder :=
  let i : Slot := BitVec.ofNat 8 b.cnt
  { b with nodes := setNode b.nodes i (Node.mkLeaf y f), cnt := b.cnt + 1 }.offer i

/-- `combine(a, c)` (42 R164) and the offer of the new node: the first polled is the left child, the second the right. The
sum is the 32-bit NFREQ; it never overflows where FREQ_TOTAL bounds it (42 R166; log 17). -/
def Builder.combine (b : Builder) (a c : Slot) : Builder :=
  let i : Slot := BitVec.ofNat 8 b.cnt
  let f := (nodeAt b.nodes a).nfreq + (nodeAt b.nodes c).nfreq
  { b with nodes := setNode b.nodes i (Node.mkInternal f a c), cnt := b.cnt + 1 }.offer i

/-- The leaf loop of BUILD (42 R163, R166): the symbols with a nonzero count, in ascending order. `fuel` symbols, from `y`
on. -/
def addLeaves (freq : Sym → Word) : (fuel : Nat) → (y : Nat) → Builder → Builder
  | 0, _, b => b
  | fuel + 1, y, b =>
    addLeaves freq fuel (y + 1)
      (if freq (BitVec.ofNat 7 y) = 0#32 then b else b.addLeaf (BitVec.ofNat 7 y) (freq (BitVec.ofNat 7 y)))

/-- The main loop of BUILD (42 R166, R167): HSIZE falls by one per turn, so `fuel = HSIZE` turns are enough. `none`: a poll
with HSIZE = 0. -/
def buildLoop : (fuel : Nat) → Builder → Option (Slot × Builder)
  | 0, _ => none
  | fuel + 1, b =>
    if b.hsize = 0 then none
    else
      let (a, b1) := b.poll
      if b1.hsize = 0 then some (a, b1)
      else
        let (c, b2) := b1.poll
        buildLoop fuel (b2.combine a c)

/-- BUILD's working state once every leaf is offered (42 R166). -/
def State.leavesOffered (s : State) : Builder :=
  addLeaves s.freqAt 128 0 { nodes := zeroNodes, cnt := 0, heap := s.heap, hsize := 0 }

/-- What a successful BUILD writes (42 R166). CODE keeps its stale contents. -/
def State.installTree (s : State) (root : Slot) (b : Builder) : State :=
  { s with
    nodes := b.nodes, nodeCnt := BitVec.ofNat 9 b.cnt, heap := b.heap, hsize := b.hsize
    root := root, treeValid := true, codesValid := false }

/-- BUILD (42 R166): INVALID_INPUT before any write when no in-range symbol is counted; RESULT is the root. -/
def execBuild (s : State) : Host.Outcome State Fault Refusal :=
  if s.distinct = 0#8 then .next (s.raise .invalidInput 0#32)
  else
    match buildLoop s.leavesOffered.hsize s.leavesOffered with
    | none => .fault .emptyHeap
    | some (root, b) => .next ((s.installTree root b).done (root.setWidth 32))

end Sys2Proof.Machine
end

