-- ==== Sys2Proof/Machine/TreeCodec.lean ====
section
/-! DEFINITION. SER and DESER (46_treecodec.md). -/
namespace Sys2Proof.Machine

/-- The tree artifact (46 R210, R211): pre-order, left before right; 0x00 internal, 0x01 leaf and its symbol byte. -/
def Tree.serialize : Tree → List Byte
  | .leaf y => [0x01#8, y.setWidth 8]
  | .node l r => 0x00#8 :: (l.serialize ++ r.serialize)

/-- SER (46 R211): NO_TREE before any write; the artifact goes to TREE_MEM from byte 0; TREE_LEN and RESULT are its
length. -/
def execSer (s : State) : Host.Outcome State Fault Refusal :=
  if s.treeValid then
    match s.tree? with
    | none => .fault .walkOverrun
    | some t =>
      .next ({ s with
        treeMem := s.treeMem.pokes 0 t.serialize
        treeLen := BitVec.ofNat 10 t.serialize.length }.done (BitVec.ofNat 32 t.serialize.length))
  else .next (s.raise .noTree 0#32)

/-- The parse's working state (46 R213, R215): position, slots allocated, symbols seen, the arena. -/
structure ParseState where
  p : Nat
  cnt : Nat
  seen : List Sym
  nodes : Vector Node 256
  deriving DecidableEq, Repr

/-- The leaf branch of `parse()` (46 R213) for slot `i`: truncated, bad symbol, duplicate symbol, in this order. -/
def parseLeaf (rd : Nat → Byte) (len : Nat) (i : Slot) (q : ParseState) : Except CorruptDetail (Slot × ParseState) :=
  if q.p ≥ len then .error .truncated
  else if (rd q.p).toNat ≥ 128 then .error .badSymbol
  else
    let y : Sym := (rd q.p).setWidth 7
    if y ∈ q.seen then .error .dupSymbol
    else .ok (i, { q with p := q.p + 1, seen := y :: q.seen, nodes := setNode q.nodes i (Node.mkLeaf y 0#32) })

/-- `parse()` (46 R213) over the bytes `rd 0 .. rd (len - 1)`. Slots are allocated in pre-order and a 256th fails, so the
recursion is at most 256 deep and `fuel = 256` is never used up. -/
def parse (rd : Nat → Byte) (len : Nat) : (fuel : Nat) → ParseState → Except CorruptDetail (Slot × ParseState)
  | 0, _ => .error .tooManyNodes
  | fuel + 1, q =>
    if q.p ≥ len then .error .truncated
    else if rd q.p ≠ 0x00#8 ∧ rd q.p ≠ 0x01#8 then .error .badMarker
    else if q.cnt = 255 then .error .tooManyNodes
    else
      let i : Slot := BitVec.ofNat 8 q.cnt
      let q1 := { q with p := q.p + 1, cnt := q.cnt + 1 }
      if rd q.p = 0x01#8 then parseLeaf rd len i q1
      else
        match parse rd len fuel q1 with
        | .error d => .error d
        | .ok (l, q2) =>
          match parse rd len fuel q2 with
          | .error d => .error d
          | .ok (r, q3) => .ok (i, { q3 with nodes := setNode q3.nodes i (Node.mkInternal 0#32 l r) })

/-- DESER's parse of TREE_MEM (46 R215): `L = min(TREE_LEN, TREE_BYTES)`. -/
def State.parseTree (s : State) : Except CorruptDetail (Slot × ParseState) :=
  parse (s.memRead .tree) (min s.treeLen.toNat Config.treeBytes) 256
    { p := 0, cnt := 0, seen := [], nodes := zeroNodes }

/-- DESER's failure effects (46 R215): no partial tree survives. -/
def State.dropTree (s : State) : State :=
  { s with
    nodes := zeroNodes, root := 0#8, nodeCnt := 0#9, treeUsed := 0#10
    treeValid := false, codesValid := false }

/-- DESER (46 R215): runs whatever TREE_VALID is; TREE_USED and RESULT are the bytes consumed. -/
def execDeser (s : State) : Host.Outcome State Fault Refusal :=
  .next (
    match s.parseTree with
    | .error d => s.dropTree.raise .corruptFormat d.word
    | .ok (_, q) =>
      { s with
        nodes := q.nodes, root := 0#8, nodeCnt := BitVec.ofNat 9 q.cnt, treeUsed := BitVec.ofNat 10 q.p
        treeValid := true, codesValid := false }.done (BitVec.ofNat 32 q.p))

end Sys2Proof.Machine
end

