-- ==== Sys2Proof/Syntax.lean ====
section
/-! DEFINITION. The commands: one constructor per row of spec/opcode_table.json (30_encoding.md R119). Operands are the
naturals the fields stand for (30 R118: unsigned, zero-extended); their ranges are `WellFormed`'s (log 19). -/
namespace Sys2Proof

/-- One command of the HTB (30 R111: one 32-bit word written to `CMD`). -/
inductive Instr where
  /-- NOP, format N (47 R230). -/
  | nop
  /-- SRST, format N (47 R231). -/
  | srst
  /-- FREQ_CLR, format N (41 R150). -/
  | freqClr
  /-- FREQ_ADD, format C (41 R151): the character value. -/
  | freqAdd (char : Nat)
  /-- BUILD, format N (42 R166). -/
  | build
  /-- CODEGEN, format N (43 R175). -/
  | codegen
  /-- BB_CREATE, format K (40 R143): the bit count. -/
  | bbCreate (count : Nat)
  /-- BB_SET, format S (40 R144): the bit index and the bit value. -/
  | bbSet (index : Nat) (bit : Bool)
  /-- BB_GET, format G (40 R145): the bit index. -/
  | bbGet (index : Nat)
  /-- ENC_CHAR, format C (44 R185): the character value. -/
  | encChar (char : Nat)
  /-- DECODE, format N (45 R195). -/
  | decode
  /-- SER, format N (46 R211). -/
  | ser
  /-- DESER, format N (46 R215). -/
  | deser
  deriving DecidableEq, Repr

end Sys2Proof
end

