-- ==== Sys2Proof/Machine/Dispatch.lean ====
section
/-! DEFINITION. One arm per command: the meaning each calls (30_encoding.md R110, R119). -/
namespace Sys2Proof.Machine

def exec (i : Instr) (s : State) : Host.Outcome State Fault Refusal :=
  match i with
  | .nop => Sys2Proof.Machine.execNop s
  | .srst => Sys2Proof.Machine.execSrst s
  | .freqClr => Sys2Proof.Machine.execFreqClr s
  | .freqAdd c => Sys2Proof.Machine.execFreqAdd c s
  | .build => Sys2Proof.Machine.execBuild s
  | .codegen => Sys2Proof.Machine.execCodegen s
  | .bbCreate n => Sys2Proof.Machine.execBbCreate n s
  | .bbSet k b => Sys2Proof.Machine.execBbSet k b s
  | .bbGet k => Sys2Proof.Machine.execBbGet k s
  | .encChar c => Sys2Proof.Machine.execEncChar c s
  | .decode => Sys2Proof.Machine.execDecode s
  | .ser => Sys2Proof.Machine.execSer s
  | .deser => Sys2Proof.Machine.execDeser s

end Sys2Proof.Machine
end

