-- ==== Sys2Proof/WellFormed.lean ====
section
/-! DEFINITION. Which commands a word can carry: each operand fits its field (30_encoding.md R112, R114, R116, R117). -/
namespace Sys2Proof

/-- The operand ranges of 30 R114 (INDEX, 23 bits), R116 (CHAR, 24 bits) and R117 (COUNT, 24 bits). -/
def Instr.wellFormed : Instr → Bool
  | .nop => true
  | .srst => true
  | .freqClr => true
  | .freqAdd c => decide (c < 2 ^ 24)
  | .build => true
  | .codegen => true
  | .bbCreate n => decide (n < 2 ^ 24)
  | .bbSet i _ => decide (i < 2 ^ 23)
  | .bbGet i => decide (i < 2 ^ 23)
  | .encChar c => decide (c < 2 ^ 24)
  | .decode => true
  | .ser => true
  | .deser => true

end Sys2Proof
end

