-- ==== Sys2Proof/Decode.lean ====
section
/-! DEFINITION. The decoder (30_encoding.md R110 to R121), total on any word and rejecting by name, and the encoder. -/
namespace Sys2Proof

/-- The two kinds of illegal word (30 R120). -/
inductive DecodeError where
  /-- `OP` is one of the 243 values R119 does not list. -/
  | unlistedOpcode (op : Byte)
  /-- `OP` is listed but a reserved field is not 0. -/
  | reservedField (op : Byte)
  deriving DecidableEq, Repr

/-- `OP = w[7:0]` (30 R110). -/
def opField (w : Word) : Byte := w.extractLsb' 0 8

/-- `CHAR = COUNT = w[31:8]` (30 R112). -/
def field24 (w : Word) : Nat := (w.extractLsb' 8 24).toNat

/-- `INDEX = w[31:9]` (30 R112). -/
def field23 (w : Word) : Nat := (w.extractLsb' 9 23).toNat

/-- `BIT = w[8]` (30 R112). -/
def field1 (w : Word) : Bool := w.getLsbD 8

/-- Format N (30 R113): `w[31:8]` must be 0. -/
def formN (w : Word) (i : Instr) : Except DecodeError Instr :=
  if field24 w = 0 then .ok i else .error (.reservedField (opField w))

/-- Format G (30 R115): `w[8]` must be 0. -/
def formG (w : Word) (i : Nat → Instr) : Except DecodeError Instr :=
  if field1 w then .error (.reservedField (opField w)) else .ok (i (field23 w))

/-- The opcode map (30 R119). Every word decodes to one command or is illegal for a named reason (R120, R121). -/
def decode (w : Word) : Except DecodeError Instr :=
  match opField w with
  | 0x00#8 => formN w .nop
  | 0x01#8 => formN w .srst
  | 0x10#8 => formN w .freqClr
  | 0x11#8 => .ok (.freqAdd (field24 w))
  | 0x20#8 => formN w .build
  | 0x21#8 => formN w .codegen
  | 0x30#8 => .ok (.bbCreate (field24 w))
  | 0x31#8 => .ok (.bbSet (field23 w) (field1 w))
  | 0x32#8 => formG w .bbGet
  | 0x38#8 => .ok (.encChar (field24 w))
  | 0x39#8 => formN w .decode
  | 0x40#8 => formN w .ser
  | 0x41#8 => formN w .deser
  | op => .error (.unlistedOpcode op)

/-- The opcode of a command (30 R119, column OP). -/
def Instr.opcode : Instr → Byte
  | .nop => 0x00#8
  | .srst => 0x01#8
  | .freqClr => 0x10#8
  | .freqAdd _ => 0x11#8
  | .build => 0x20#8
  | .codegen => 0x21#8
  | .bbCreate _ => 0x30#8
  | .bbSet _ _ => 0x31#8
  | .bbGet _ => 0x32#8
  | .encChar _ => 0x38#8
  | .decode => 0x39#8
  | .ser => 0x40#8
  | .deser => 0x41#8

/-- The 24 bits above the opcode (30 R112, R122: the encoded word is `{field, OP}`). -/
def Instr.fields : Instr → BitVec 24
  | .nop => 0#24
  | .srst => 0#24
  | .freqClr => 0#24
  | .freqAdd c => BitVec.ofNat 24 c
  | .build => 0#24
  | .codegen => 0#24
  | .bbCreate n => BitVec.ofNat 24 n
  | .bbSet i b => BitVec.ofNat 23 i ++ BitVec.ofBool b
  | .bbGet i => BitVec.ofNat 23 i ++ 0#1
  | .encChar c => BitVec.ofNat 24 c
  | .decode => 0#24
  | .ser => 0#24
  | .deser => 0#24

/-- The encoder: the word of a well-formed command (30 R112, R119, R122). -/
def encode (i : Instr) : Word := i.fields ++ i.opcode

/-- The command in a word given as a number whose low `nbits` bits are the table's (30 R111: a command is exactly one
32-bit word, delivered by the `CMD` write and never fetched from memory, 20 R94; log 16). -/
def decodeTableWord (nbits w : Nat) : Option Instr :=
  match decode (BitVec.ofNat 32 (w % 2 ^ nbits)) with
  | .ok i => some i
  | .error _ => none

end Sys2Proof
end

