-- ==== Sys2Proof/Machine/Bus.lean ====
section
/-! DEFINITION. The address map and the two bus transactions (20_memory.md, 10_state.md R32, 70_reset_and_hazards.md R281,
R282). -/
namespace Sys2Proof.Machine

/-- The registers of 10 R32, in offset order. -/
inductive Reg where
  | id | status | cmd | err | ctrl | irqStat | result | freqTotal | dropCnt
  | distinct | root | nodeCnt | treeLen | cartLen | outLen | treeUsed | cartCap | outCap
  deriving DecidableEq, Repr

/-- What a mapped word-aligned offset names (20 R83). -/
inductive Loc where
  | reg (r : Reg)
  | freq (y : Sym)
  | node (i : Slot) (hi : Bool)
  | code (y : Sym) (word : BitVec 3)
  | bytes (m : ByteMem) (at_ : Nat)
  deriving DecidableEq, Repr

/-- The register at word `k` of the register file (10 R32: offset 4·k). -/
def regAt (k : Nat) : Option Reg :=
  [Reg.id, .status, .cmd, .err, .ctrl, .irqStat, .result, .freqTotal, .dropCnt, .distinct, .root, .nodeCnt, .treeLen,
    .cartLen, .outLen, .treeUsed, .cartCap, .outCap][k]?

/-- The address map (20 R83, 10 R32, R51, R53, R55 to R58) at a word-aligned offset; `none` is unmapped (20 R84). -/
def locate (p : Params) (n : Nat) : Option Loc :=
  if n < 0x400 then (regAt (n / 4)).map Loc.reg
  else if n < 0x600 then some (.freq (BitVec.ofNat 7 ((n - 0x400) / 4)))
  else if n < 0x800 then none
  else if n < 0x1000 then some (.node (BitVec.ofNat 8 ((n - 0x800) / 8)) (decide (n / 4 % 2 = 1)))
  else if n < 0x2000 then some (.code (BitVec.ofNat 7 ((n - 0x1000) / 32)) (BitVec.ofNat 3 (n / 4)))
  else if n < 0x2200 then some (.bytes .tree (n - 0x2000))
  else if n < 0x10000 then none
  else if n < 0x20000 then
    if n - 0x10000 < p.cartBytes then some (.bytes .cart (n - 0x10000)) else none
  else if n - 0x20000 < p.outBytes then some (.bytes .out (n - 0x20000)) else none

/-- The `ctl` group (70 R281): the registers the host may access while BUSY. -/
def Loc.isCtl : Loc → Bool
  | .reg .id => true
  | .reg .status => true
  | .reg .err => true
  | .reg .ctrl => true
  | .reg .irqStat => true
  | .reg .cartCap => true
  | .reg .outCap => true
  | _ => false

/-- What a register reads (10 R31, R35 to R50); reserved bits read 0 (10 R66), CMD reads 0 (10 R36). -/
def State.readReg (s : State) : Reg → Word
  | .id => Config.idValue
  | .status => s.statusWord
  | .cmd => 0#32
  | .err => s.errWord
  | .ctrl => s.ctrlWord
  | .irqStat => bit0 s.irqDone
  | .result => s.result
  | .freqTotal => s.freqTotal
  | .dropCnt => s.dropCnt
  | .distinct => s.distinct.setWidth 32
  | .root => s.root.setWidth 32
  | .nodeCnt => s.nodeCnt.setWidth 32
  | .treeLen => s.treeLen.setWidth 32
  | .cartLen => s.cartLen.setWidth 32
  | .outLen => s.outLen.setWidth 32
  | .treeUsed => s.treeUsed.setWidth 32
  | .cartCap => BitVec.ofNat 32 s.params.cartBytes
  | .outCap => BitVec.ofNat 32 s.params.outBytes

/-- Word 0 of a NODE slot (10 R53): SYM [6:0], LEAF [7], LEFT [15:8], RIGHT [23:16], the rest 0. -/
def Node.word0 (n : Node) : Word := 0#8 ++ n.right ++ n.left ++ BitVec.ofBool n.leaf ++ n.sym

/-- Word `k` of a CODE entry (10 R55): CLEN, then the four words of CBITS, then zeros. -/
def CodeEntry.busWord (e : CodeEntry) (k : BitVec 3) : Word :=
  if k = 0#3 then e.clen.setWidth 32
  else if k.toNat ≤ 4 then e.cbits.extractLsb' (32 * (k.toNat - 1)) 32
  else 0#32

/-- The word of a byte window at byte `a` (20 R85): little-endian. -/
def State.readBytes (s : State) (m : ByteMem) (a : Nat) : Word :=
  s.memRead m (a + 3) ++ s.memRead m (a + 2) ++ s.memRead m (a + 1) ++ s.memRead m a

/-- Writes all four bytes of a window word (20 R85): little-endian. -/
def State.writeBytes (s : State) (m : ByteMem) (a : Nat) (d : Word) : State :=
  s.memWrites m a [d.extractLsb' 0 8, d.extractLsb' 8 8, d.extractLsb' 16 8, d.extractLsb' 24 8]

/-- What a mapped location reads. -/
def State.readLoc (s : State) : Loc → Word
  | .reg r => s.readReg r
  | .freq y => s.freqAt y
  | .node i false => (nodeAt s.nodes i).word0
  | .node i true => (nodeAt s.nodes i).nfreq
  | .code y k => (s.codeAt y).busWord k
  | .bytes m a => s.readBytes m a

/-- What a write to a register does: CMD issues a command (10 R36), ERR clears the first error (R37), CTRL (R38) and the
length registers (R46, R47) take their writable bits, IRQ_STAT is write-1-to-clear (R39); every other register ignores it
(R66). -/
def State.writeReg (s : State) (d : Word) : Reg → State
  | .cmd => { s with pending := .command d }
  | .err => s.clearFirstError
  | .ctrl => { s with doneIe := d.getLsbD 0, errIe := d.getLsbD 1 }
  | .irqStat => { s with irqDone := s.irqDone && !d.getLsbD 0 }
  | .treeLen => { s with treeLen := d.setWidth 10 }
  | .cartLen => { s with cartLen := d.setWidth 17 }
  | .id => s
  | .status => s
  | .result => s
  | .freqTotal => s
  | .dropCnt => s
  | .distinct => s
  | .root => s
  | .nodeCnt => s
  | .outLen => s
  | .treeUsed => s
  | .cartCap => s
  | .outCap => s

/-- What a write to a mapped location does: TREE_MEM and CART are writable, every other window ignores it (20 R83, 10 R66). -/
def State.writeLoc (s : State) (d : Word) : Loc → State
  | .reg r => s.writeReg d r
  | .bytes .tree a => s.writeBytes .tree a d
  | .bytes .cart a => s.writeBytes .cart a d
  | .bytes .out _ => s
  | .freq _ => s
  | .node _ _ => s
  | .code _ _ => s

/-- The mapped location of an offset: `none` for a misaligned (20 R82) or unmapped (R84) one. -/
def State.target (s : State) (a : Offset) : Option Loc :=
  if a.toNat % 4 = 0 then locate s.params a.toNat else none

/-- Whether an access to a mapped location is a busy violation (70 R282): BUSY and in the data group. -/
def State.violates (s : State) (l : Loc) : Bool := s.busy && !l.isCtl

/-- `BusRead(a)` (20 R81, R82, R84; 70 R282). -/
def State.busRead (s : State) (a : Offset) : BusResp × State :=
  match s.target a with
  | none => (.busErr, s)
  | some l => if s.violates l then (.word 0#32, s.recordBusyViolation) else (.word (s.readLoc l), s)

/-- `BusWrite(a, d)` (20 R81, R82, R84; 70 R282). -/
def State.busWrite (s : State) (a : Offset) (d : Word) : BusResp × State :=
  match s.target a with
  | none => (.busErr, s)
  | some l => if s.violates l then (.ok, s.recordBusyViolation) else (.ok, s.writeLoc d l)

end Sys2Proof.Machine
end

