-- ==== Sys2Proof/Machine/HostProgram.lean ====
section
/-! DEFINITION. The host agent: its operations and the pseudo-operations of its programs (30_encoding.md R123 to R127), and
the pin `rst_n` (70_reset_and_hazards.md R270, R285). -/
namespace Sys2Proof.Machine

/-- The offset of `CMD` (10 R32). -/
def cmdOffset : Offset := 0x008#18

/-- The offset of `STATUS` (10 R32). -/
def statusOffset : Offset := 0x004#18

/-- `ENC_BEGIN` is `BB_CREATE 0` (30 R123). -/
def encBegin : Instr := .bbCreate 0

/-- `C cmd` (30 R126): the write of the command word, then WAIT. -/
def opsC (i : Instr) : List HostOp := [.write cmdOffset (encode i), .wait]

/-- `WBYTES base, bs` (30 R127): words packed little-endian, the last padded with zero bytes. DESIGN CHOICE (log 21): an
offset `base + 4j` past 0x3FFFF, for which the spec names none, is taken modulo 2^18. -/
def opsWBytes (base : Offset) : List Byte → List HostOp
  | [] => []
  | [b0] => [.write base (0#24 ++ b0)]
  | [b0, b1] => [.write base (0#16 ++ b1 ++ b0)]
  | [b0, b1, b2] => [.write base (0#8 ++ b2 ++ b1 ++ b0)]
  | b0 :: b1 :: b2 :: b3 :: rest => .write base (b3 ++ b2 ++ b1 ++ b0) :: opsWBytes (base + 4#18) rest

/-- `ceil(m/4)` (30 R127): how many words hold `m` bytes. -/
def ceil4 (m : Nat) : Nat := (m + 3) / 4

/-- The reads of `RBYTES base, m` (30 R127): `ceil(m/4)` words. DESIGN CHOICE (log 21): an offset `base + 4j` past 0x3FFFF,
for which the spec names none, is taken modulo 2^18. -/
def opsRBytes (base : Offset) (m : Nat) : List HostOp :=
  (List.range (ceil4 m)).map (fun j => .read (base + BitVec.ofNat 18 (4 * j)))

/-- The four bytes of a window word, in window order (20 R85). -/
def wordBytes (w : Word) : List Byte := [w.extractLsb' 0 8, w.extractLsb' 8 8, w.extractLsb' 16 8, w.extractLsb' 24 8]

/-- The bytes of the words that a run of reads returned, oldest first. DESIGN CHOICE (log 22): a read that returned no word
leaves `RBYTES` without bytes. -/
def respBytes : List BusResp → Option (List Byte)
  | [] => some []
  | .word w :: rs => (respBytes rs).map (wordBytes w ++ ·)
  | .ok :: _ => none
  | .busErr :: _ => none

/-- What `RBYTES base, m` unpacks its reads' responses into (30 R127): the `m` bytes, in window order, those past byte
`m - 1` of the last word dropped. -/
def unpackRBytes (m : Nat) (rs : List BusResp) : Option (List Byte) := (respBytes rs).map (List.take m)

/-- The bytes an `RBYTES base, m` that the host has just performed gives it: unpacked from its latest `ceil(m/4)` recorded
responses (30 R124, R127). -/
def State.hostRBytes (s : State) (m : Nat) : Option (List Byte) :=
  unpackRBytes m (s.host.recorded.drop (s.host.recorded.length - ceil4 m))

/-- The host's program index moves to the next operation (30 R125). -/
def State.hostAdvance (s : State) : State := { s with host := { s.host with index := s.host.index + 1 } }

/-- The response of a transaction reaches the host (20 R81). -/
def State.hostResp (s : State) (r : BusResp) : State := { s with host := { s.host with lastResp := r } }

/-- A read's response is also recorded by the program (30 R124). -/
def State.hostRecord (s : State) (r : BusResp) : State :=
  { s with host := { s.host with lastResp := r, recorded := s.host.recorded ++ [r] } }

/-- Whether WAIT stays (30 R125): bit 0 of the word read is 1. -/
def waitStays : BusResp → Bool
  | .word w => w.getLsbD 0
  | .ok => false
  | .busErr => false

/-- `W off, d` (30 R124). -/
def State.hostWrite (s : State) (a : Offset) (d : Word) : State :=
  ((s.busWrite a d).2.hostResp (s.busWrite a d).1).hostAdvance

/-- `R off` (30 R124). -/
def State.hostRead (s : State) (a : Offset) : State :=
  ((s.busRead a).2.hostRecord (s.busRead a).1).hostAdvance

/-- One turn of `WAIT` (30 R125): `R 0x004`, then stay or advance. -/
def State.hostWait (s : State) : State :=
  let t := (s.busRead statusOffset).2.hostRecord (s.busRead statusOffset).1
  if waitStays (s.busRead statusOffset).1 then t else t.hostAdvance

/-- One host operation. No bus access is admitted while `rst_n` is low (70 R285). A rising edge resets the block (70 R270);
a level that does not change does nothing. -/
def hostOp (s : State) : HostOp → Host.Outcome State Fault Refusal
  | .write a d => if s.rstN then .next (s.hostWrite a d) else .refused .accessInReset
  | .read a => if s.rstN then .next (s.hostRead a) else .refused .accessInReset
  | .wait => if s.rstN then .next s.hostWait else .refused .accessInReset
  | .rstLow => .next { s with rstN := false }.hostAdvance
  | .rstHigh => .next (if s.rstN then s.hostAdvance else s.release.hostAdvance)

/-! ### The schedule P3 (92 P3, 70 R286, R287; log 2) -/

/-- How many host steps still go before the engine's step. -/
def Schedule.left (q : Schedule) : Nat :=
  match q.queue with
  | [] => Config.engineDelay q.draws
  | d :: _ => d

/-- One host step has gone while an action is pending. -/
def Schedule.tick (q : Schedule) : Schedule :=
  match q.queue with
  | [] => { queue := [Config.engineDelay q.draws - 1], draws := q.draws + 1 }
  | d :: ds => { q with queue := (d - 1) :: ds }

/-- The engine has taken its step. -/
def Schedule.pop (q : Schedule) : Schedule :=
  match q.queue with
  | [] => { q with draws := q.draws + 1 }
  | _ :: ds => { q with queue := ds }

/-- The operation the host does next, if its program has not ended (30 R124). -/
def State.nextOp (s : State) : Option HostOp := s.host.program[s.host.index]?

/-- The engine moves (10 R30): only while BUSY and out of reset, once the scheduled host steps have gone or the host's
program has ended. -/
def State.engineTurn (s : State) : Bool :=
  s.rstN && s.busy && (s.nextOp.isNone || decide (s.sched.left = 0))

/-- The host's step. With its program ended the block stays as it is (log 11). -/
def hostStep (s : State) : Host.Outcome State Fault Refusal :=
  match s.nextOp with
  | none => .next s
  | some op => hostOp (if s.rstN && s.busy then { s with sched := s.sched.tick } else s) op

end Sys2Proof.Machine
end

