-- ==== Sys2Proof/Machine/Engine.lean ====
section
/-! DEFINITION. The engine's step (10_state.md R30, R59; 20_memory.md R86; 30_encoding.md R110). -/
namespace Sys2Proof.Machine

/-- What the engine does with a command word (30 R110): the command it decodes to, or ILLEGAL_CMD. -/
def runWord (w : Word) (s : State) : Host.Outcome State Fault Refusal :=
  match decode w with
  | .ok i => exec i s
  | .error _ => execIllegal s

/-- The engine's step performs the whole pending action (20 R86), and takes its turn off the schedule. -/
def engineStep (s : State) : Host.Outcome State Fault Refusal :=
  let t := { s with sched := s.sched.pop }
  match s.pending with
  | .idle => .next t
  | .init => .next t.initAction
  | .command w => runWord w t

end Sys2Proof.Machine
end

