-- ==== Sys2Proof/Machine/Step.lean ====
section
/-! DEFINITION. One step of the machine: the engine's or the host's (10_state.md R30, 20_memory.md R91). -/
namespace Sys2Proof.Machine

/-- One step of the interleaving (20 R91). -/
def step (s : State) : Host.Outcome State Fault Refusal :=
  if s.engineTurn then engineStep s else hostStep s

/-- `s` with the command word `w` (its low `nbits` bits) delivered: PENDING holds it, BUSY is 1, the block is out of reset
and the schedule gives the engine the very next step (20 R94: a command word is delivered by the CMD write and never
fetched; log 9, log 16). -/
def State.withFetchWord (s : State) (nbits w : Nat) : State :=
  { s with
    pending := .command (BitVec.ofNat 32 (w % 2 ^ nbits))
    rstN := true
    sched := { s.sched with queue := 0 :: s.sched.queue } }

end Sys2Proof.Machine
end

