-- ==== Sys2Proof/Safety.lean ====
section
/-! DEFINITION. The terms of the claims: how a command completes, frames, the invariants of 10_state.md, and the reference
functions on trees, paths and bit streams that statements compare the machine with. -/
namespace Sys2Proof.Safety
open Sys2Proof.Machine

/-! ### Completion and frames -/

/-- `t` is how a successful command that started in `s` completes, with result `r` (60 R244). -/
structure Completed (s t : State) (r : Word) : Prop where
  result : t.result = r
  last : t.errLast = .noError
  first : t.errFirst = s.errFirst
  firstOp : t.errFirstOp = s.errFirstOp
  done : t.irqDone = true
  idle : t.pending = .idle

/-- `t` is how a command that started in `s` fails with error `e` and detail `d` (60 R245). -/
structure Failed (s t : State) (e : ErrCode) (d : Word) : Prop where
  result : t.result = d
  last : t.errLast = e
  first : t.errFirst = if s.errFirst = .noError then e else s.errFirst
  firstOp : t.errFirstOp = if s.errFirst = .noError then s.pendingOp else s.errFirstOp
  done : t.irqDone = true
  idle : t.pending = .idle

/-- A part of the state other than the completion state (PENDING, RESULT, ERR, DONE), for frames. -/
inductive Piece where
  /-- FREQ, FREQ_TOTAL, DROP_CNT, DISTINCT. -/
  | counts
  /-- NODE, ROOT, NODE_CNT, TREE_VALID. -/
  | tree
  /-- CODE. -/
  | codes
  /-- CODES_VALID. -/
  | codesValid
  /-- HEAP, HSIZE. -/
  | queue
  /-- TREE_LEN. -/
  | treeLen
  /-- CART_LEN. -/
  | cartLen
  /-- OUT_LEN. -/
  | outLen
  /-- TREE_USED. -/
  | treeUsed
  /-- CTRL. -/
  | ctrl
  /-- Every byte of a byte memory. -/
  | bytes (m : ByteMem)
  /-- The parameters, the pin `rst_n`, the reset count, the schedule and the host agent. -/
  | env
  deriving DecidableEq, Repr

/-- The piece is the same in both states. Memory is compared byte by byte through `memRead`. -/
def Piece.same (s t : State) : Piece → Prop
  | .counts => t.freq = s.freq ∧ t.freqTotal = s.freqTotal ∧ t.dropCnt = s.dropCnt ∧ t.distinct = s.distinct
  | .tree => t.nodes = s.nodes ∧ t.root = s.root ∧ t.nodeCnt = s.nodeCnt ∧ t.treeValid = s.treeValid
  | .codes => t.code = s.code
  | .codesValid => t.codesValid = s.codesValid
  | .queue => t.heap = s.heap ∧ t.hsize = s.hsize
  | .treeLen => t.treeLen = s.treeLen
  | .cartLen => t.cartLen = s.cartLen
  | .outLen => t.outLen = s.outLen
  | .treeUsed => t.treeUsed = s.treeUsed
  | .ctrl => t.doneIe = s.doneIe ∧ t.errIe = s.errIe
  | .bytes m => ∀ a, t.memRead m a = s.memRead m a
  | .env => t.params = s.params ∧ t.rstN = s.rstN ∧ t.epoch = s.epoch ∧ t.sched = s.sched ∧ t.host = s.host

/-- The frame: everything but the completion state and the pieces in `ps` is unchanged. -/
def KeepsAllBut (ps : List Piece) (s t : State) : Prop := ∀ p, p ∉ ps → p.same s t

/-! ### Trees, paths and codes (00 R13) -/

/-- The slots a pre-order walk from `i` visits, as numbers. -/
def slotsFrom (nodes : Vector Node 256) : (fuel : Nat) → Slot → List Nat
  | 0, _ => []
  | fuel + 1, i =>
    if (nodeAt nodes i).leaf then [i.toNat]
    else i.toNat :: (slotsFrom nodes fuel (nodeAt nodes i).left ++ slotsFrom nodes fuel (nodeAt nodes i).right)

/-- Each leaf symbol with its path from the root: false is a left edge, bit 0, and true a right edge, bit 1. -/
def paths : Tree → List (Sym × List Bool)
  | .leaf y => [(y, [])]
  | .node l r =>
    (paths l).map (fun e => (e.1, false :: e.2)) ++ (paths r).map (fun e => (e.1, true :: e.2))

/-- Each leaf symbol with its code: its path, but the one-bit code 1 for a lone leaf (43 R176). -/
def codeWords : Tree → List (Sym × List Bool)
  | .leaf y => [(y, [true])]
  | .node l r => paths (.node l r)

/-- A code table entry as a bit string, code bit 0 first. -/
def entryBits (e : CodeEntry) : List Bool := (List.range e.clen.toNat).map e.cbits.getLsbD

/-- The symbols that the complete codes of a bit string name, walking from `pos` and starting again at `root` after each
leaf (45 R195); at a lone leaf every bit names its symbol (45 R197, for 1-bits). -/
def decodeBits (root : Tree) : (pos : Tree) → List Bool → List Sym
  | _, [] => []
  | .leaf y, _ :: bs => y :: decodeBits root (.leaf y) bs
  | .node l r, b :: bs =>
    match if b then r else l with
    | .leaf y => y :: decodeBits root root bs
    | .node l' r' => decodeBits root (.node l' r') bs

/-- The packed bit stream CART declares (40 R140, R141). -/
def streamOf (s : State) : List Bool := (List.range s.be32.toNat).map s.getbit

/-- The bytes of memory `m` from `a` on. -/
def bytesFrom (s : State) (m : ByteMem) (a n : Nat) : List Byte := (List.range n).map (fun k => s.memRead m (a + k))

/-- The in-range characters of a text, as symbols (00 R14). -/
def inRange (text : List Nat) : List Sym := text.filterMap charSym

/-- The symbols that have been counted, ascending (42 R163). -/
def countedSyms (s : State) : List Sym :=
  ((List.range 128).map (BitVec.ofNat 7)).filter (fun y => decide (s.freqAt y ≠ 0#32))

/-- The opcode map as match and mask (30 R119). -/
def opcodeRows : List (Word × Word) :=
  [(0x00000000#32, 0xFFFFFFFF#32), (0x00000001#32, 0xFFFFFFFF#32), (0x00000010#32, 0xFFFFFFFF#32),
   (0x00000011#32, 0x000000FF#32), (0x00000020#32, 0xFFFFFFFF#32), (0x00000021#32, 0xFFFFFFFF#32),
   (0x00000030#32, 0x000000FF#32), (0x00000031#32, 0x000000FF#32), (0x00000032#32, 0x000001FF#32),
   (0x00000038#32, 0x000000FF#32), (0x00000039#32, 0xFFFFFFFF#32), (0x00000040#32, 0xFFFFFFFF#32),
   (0x00000041#32, 0xFFFFFFFF#32)]

/-- The commands run one after another by the engine, each from the state the one before it left. -/
def execAll : List Instr → State → Host.Outcome State Fault Refusal
  | [], s => .next s
  | i :: is, s =>
    match exec i s with
    | .next t => execAll is t
    | .fault f => .fault f
    | .refused r => .refused r

/-- Host operations performed one after another (30 R124), each from the state the one before it left. -/
def runHostOps : List HostOp → State → Host.Outcome State Fault Refusal
  | [], s => .next s
  | op :: ops, s =>
    match hostOp s op with
    | .next t => runHostOps ops t
    | .fault f => .fault f
    | .refused r => .refused r

/-- `k` steps of the machine. -/
def runSteps : Nat → State → Host.Outcome State Fault Refusal
  | 0, s => .next s
  | k + 1, s =>
    match step s with
    | .next t => runSteps k t
    | .fault f => .fault f
    | .refused r => .refused r

/-- The tree artifact's grammar (46 R210): `node ::= 0x00 node node | 0x01 sym`. -/
inductive IsArtifact : List Byte → Tree → Prop where
  | leaf (y : Sym) (b : Byte) (h : b.toNat = y.toNat) : IsArtifact [0x01#8, b] (.leaf y)
  | node (bl br : List Byte) (l r : Tree) (hl : IsArtifact bl l) (hr : IsArtifact br r) :
      IsArtifact (0x00#8 :: (bl ++ br)) (.node l r)

/-- What DESER makes of a byte stream, read in one pass and without building a tree (46 R213, R214): `need` subtrees are
still to be read, `cnt` nodes have been allocated, `seen` are the leaf symbols so far and `p` is the position. The answer is
the position after the last byte consumed, or the detail code of the first failing check. -/
def deserScan : (bytes : List Byte) → (need cnt : Nat) → (seen : List Byte) → (p : Nat) → Except Nat Nat
  | _, 0, _, _, p => .ok p
  | [], _ + 1, _, _, _ => .error 1
  | m :: rest, need + 1, cnt, seen, p =>
    if m = 0x00#8 then
      if cnt = 255 then .error 5 else deserScan rest (need + 2) (cnt + 1) seen (p + 1)
    else if m = 0x01#8 then
      if cnt = 255 then .error 5
      else
        match rest with
        | [] => .error 1
        | y :: rest' =>
          if 128 ≤ y.toNat then .error 3
          else if y ∈ seen then .error 4
          else deserScan rest' need (cnt + 1) (y :: seen) (p + 2)
    else .error 2

/-- The pieces each command may change, by its own rule (47 R230, R231; 41 R150, R151; 42 R166; 43 R175; 40 R143 to R145;
44 R185; 45 R195; 46 R211, R215), failing or not (60 R246). -/
def mayWrite : Instr → List Piece
  | .nop => []
  | .srst => [.counts, .tree, .codes, .codesValid, .treeLen, .cartLen, .outLen, .treeUsed]
  | .freqClr => [.counts]
  | .freqAdd _ => [.counts]
  | .build => [.tree, .codesValid, .queue]
  | .codegen => [.codes, .codesValid]
  | .bbCreate _ => [.bytes .cart, .cartLen]
  | .bbSet _ _ => [.bytes .cart]
  | .bbGet _ => []
  | .encChar _ => [.bytes .cart, .cartLen]
  | .decode => [.outLen, .bytes .out]
  | .ser => [.bytes .tree, .treeLen]
  | .deser => [.tree, .codesValid, .treeUsed]

/-! ### The address map as ranges (20 R83, 70 R281) -/

/-- A mapped offset (20 R83). -/
abbrev Mapped (p : Params) (n : Nat) : Prop :=
  n < 0x48 ∨ (0x400 ≤ n ∧ n < 0x600) ∨ (0x800 ≤ n ∧ n < 0x1000) ∨ (0x1000 ≤ n ∧ n < 0x2000) ∨
    (0x2000 ≤ n ∧ n < 0x2200) ∨ (0x10000 ≤ n ∧ n < 0x10000 + p.cartBytes) ∨
    (0x20000 ≤ n ∧ n < 0x20000 + p.outBytes)

/-- The offsets of the `ctl` group (70 R281). -/
def ctlOffsets : List Nat := [0x000, 0x004, 0x00C, 0x010, 0x014, 0x040, 0x044]

/-- An offset whose write changes something when the block is idle (10 R32, 20 R83): CMD, ERR, CTRL, IRQ_STAT, TREE_LEN,
CART_LEN and the windows of TREE_MEM and CART. -/
abbrev Writable (p : Params) (n : Nat) : Prop :=
  n ∈ [0x008, 0x00C, 0x010, 0x014, 0x030, 0x034] ∨ (0x2000 ≤ n ∧ n < 0x2200) ∨
    (0x10000 ≤ n ∧ n < 0x10000 + p.cartBytes)

/-! ### The priority queue (42 R160) -/

/-- No entry lies below its parent. -/
def HeapOrdered (b : Builder) : Prop :=
  ∀ k, 0 < k → k < b.hsize → nodeKey b.nodes (heapAt b.heap ((k - 1) / 2)) ≤ nodeKey b.nodes (heapAt b.heap k)

/-- The entries of the queue. -/
def entries (b : Builder) : List Slot := (List.range b.hsize).map (heapAt b.heap)

/-! ### Invariants -/

/-- The parameters are legal (00 R9) and every byte memory has its canonical form (10 R56 to R58). -/
structure MemInv (s : State) : Prop where
  legal : s.params.Legal
  wf : ∀ m, (s.mem m).wf (memSize s.params m)

/-- OUT holds symbols, bit 7 zero, and OUT_LEN is at most OUT_BYTES (10 R48, R58). -/
structure OutInv (s : State) : Prop where
  syms : ∀ c ∈ s.out, c.2.toNat < 128
  len : s.outLen.toNat ≤ s.params.outBytes

/-- FREQ_TOTAL is the sum of FREQ (10 R41) and DISTINCT the number of nonzero counts (10 R43) once INIT has run; before it,
both are 0 (10 R65). -/
structure CountInv (s : State) : Prop where
  init : s.pending = .init → s.freqTotal = 0#32 ∧ s.distinct = 0#8
  total : s.pending ≠ .init → s.freqTotal.toNat = (s.freq.toList.map BitVec.toNat).sum
  distinct : s.pending ≠ .init → s.distinct.toNat = s.freq.toList.countP (fun f => decide (f ≠ 0#32))

/-- NODE holds a tree from `root` (10 R62 a to d): read from ROOT, every slot below NODE_CNT visited exactly once, and the
leaf symbols distinct. -/
structure TreeOk (nodes : Vector Node 256) (root : Slot) (cnt : Nat) : Prop where
  small : cnt ≤ 255
  reads : ∃ t, readTree nodes 128 root = some t ∧ t.symbols.Nodup
  slots : (slotsFrom nodes 128 root).Perm (List.range cnt)

/-- The tree state (10 R44, R45, R52, R53, R62). -/
structure TreeInv (s : State) : Prop where
  ok : s.treeValid = true → TreeOk s.nodes s.root s.nodeCnt.toNat
  none : s.treeValid = false → s.root = 0#8 ∧ s.nodeCnt = 0#9
  init : s.pending = .init → s.treeValid = false
  unallocated : s.pending ≠ .init → ∀ i (h : i < 256), s.nodeCnt.toNat ≤ i → s.nodes[i] = Node.zero
  form : ∀ i (h : i < 256),
    if s.nodes[i].leaf then s.nodes[i].left = 0#8 ∧ s.nodes[i].right = 0#8 else s.nodes[i].sym = 0#7

/-- The code table (10 R54, R63): bits past CLEN are 0, and CODES_VALID says CODE is the table of the current tree. -/
structure CodeInv (s : State) : Prop where
  pad : ∀ i (h : i < 128) j, s.code[i].clen.toNat ≤ j → s.code[i].cbits.getLsbD j = false
  valid : s.codesValid = true → s.treeValid = true ∧ ∃ t, s.tree? = some t ∧ s.code = t.codeTable

/-- The error state (10 R37, R40; 60 R240, R241; 93 U7): FIRST_OP is 0 with no first error, LAST_CODE is never
BUSY_VIOLATION, RESULT after a failure is 0 but for CORRUPT_FORMAT's details 1 to 7. -/
structure ErrInv (s : State) : Prop where
  firstOp : s.errFirst = .noError → s.errFirstOp = 0#8
  last : s.errLast ≠ .busyViolation
  detail : s.errLast = .corruptFormat → 1 ≤ s.result.toNat ∧ s.result.toNat ≤ 7
  zero : s.errLast ≠ .noError → s.errLast ≠ .corruptFormat → s.result = 0#32

/-- HSIZE is 0 between commands (10 R60) and the host program index is within the program or at its end (30 R125). -/
structure IdleInv (s : State) : Prop where
  hsize : s.hsize = 0
  index : s.host.index ≤ s.host.program.length

end Sys2Proof.Safety
end

