-- ==== Sys2Proof/Certificates/Slice0/Obligations.lean ====
section
/-! DEFINITION. The statements for the provers, from the numbered rules of spec/. -/

open Sys2Proof Sys2Proof.Machine Sys2Proof.Safety

/-! ### Encoding -/

/-- 30 R112, R119, R122: decoding the word of any well-formed command gives the command back, operands and all. -/
def Obligations.DecodeOfEncode : Prop :=
  ∀ i : Instr, i.wellFormed = true → decode (encode i) = .ok i

/-- 30 R119: each word has at most one meaning: a word that decodes is the word of what it decodes to. -/
def Obligations.EncodeOfDecode : Prop :=
  ∀ (w : Word) (i : Instr), decode w = .ok i → i.wellFormed = true ∧ encode i = w

/-- The words of 95_test_vectors.md decode to the commands it writes beside them (tier 1). -/
def Obligations.SpecWordsDecode : Prop :=
  decode 0x00000000#32 = .ok .nop ∧ decode 0x00000001#32 = .ok .srst ∧ decode 0x00000010#32 = .ok .freqClr ∧
  decode 0x00004511#32 = .ok (.freqAdd 0x45) ∧ decode 0xFFFFFF11#32 = .ok (.freqAdd 0xFFFFFF) ∧
  decode 0x00000020#32 = .ok .build ∧ decode 0x00000021#32 = .ok .codegen ∧
  decode 0x00000A30#32 = .ok (.bbCreate 10) ∧ decode 0x00001331#32 = .ok (.bbSet 9 true) ∧
  decode 0x00001231#32 = .ok (.bbSet 9 false) ∧ decode 0x00001432#32 = .ok (.bbGet 10) ∧
  decode 0x00004538#32 = .ok (.encChar 0x45) ∧ decode 0x00000039#32 = .ok .decode ∧
  decode 0x00000040#32 = .ok .ser ∧ decode 0x00000041#32 = .ok .deser

/-- 30 R120: a word is illegal exactly when it matches no row of the opcode map: its opcode is not listed, or a reserved
field is not 0. The engine then fails the command with ILLEGAL_CMD, detail 0, and changes nothing but the completion
state. -/
def Obligations.IllegalWordFails : Prop :=
  ErrCode.illegalCmd.byte = 0x01#8 ∧
  ∀ w : Word,
    ((∀ r ∈ opcodeRows, w &&& r.2 ≠ r.1) ↔ ∃ e, decode w = .error e) ∧
    ((∀ r ∈ opcodeRows, w.extractLsb' 0 8 ≠ r.1.extractLsb' 0 8) →
      decode w = .error (.unlistedOpcode (w.extractLsb' 0 8))) ∧
    ((∀ r ∈ opcodeRows, w &&& r.2 ≠ r.1) → (∃ r ∈ opcodeRows, w.extractLsb' 0 8 = r.1.extractLsb' 0 8) →
      decode w = .error (.reservedField (w.extractLsb' 0 8))) ∧
    ((∀ r ∈ opcodeRows, w &&& r.2 ≠ r.1) →
      ∀ s : State, ∃ t, runWord w s = .next t ∧ Failed s t .illegalCmd 0#32 ∧ KeepsAllBut [] s t ∧
        (s.pending = .command w → s.errFirst = .noError → t.errFirstOp = w.extractLsb' 0 8))

/-! ### The step -/

/-- 10 R30, R59, 30 R110: when the engine moves on a pending word that decodes to `i`, the step is `exec i`; on an illegal
word it is the illegal word's failure; without BUSY or in reset the engine never moves. When it is the engine's turn, and
that the schedule's entry is then taken off, is the model's choice (log 2, DESIGN CHOICE). -/
def Obligations.StepRunsPendingWord : Prop :=
  (∀ (s : State) (w : Word) (i : Instr), s.engineTurn = true → s.pending = .command w → decode w = .ok i →
    step s = exec i { s with sched := s.sched.pop }) ∧
  (∀ (s : State) (w : Word) (e : DecodeError), s.engineTurn = true → s.pending = .command w → decode w = .error e →
    step s = execIllegal { s with sched := s.sched.pop }) ∧
  (∀ s : State, s.pending = .idle ∨ s.rstN = false → step s = hostStep s)

/-- 70 R271: INIT clears FREQ, NODE and CODE and then BUSY, and rewrites no register and no byte memory: not ERR, CTRL,
RESULT or DONE either. -/
def Obligations.InitClearsTables : Prop :=
  ∀ s : State, s.engineTurn = true → s.pending = .init →
    ∃ t, step s = .next t ∧ t.pending = .idle ∧
      (∀ y, t.freqAt y = 0#32) ∧ (∀ i, nodeAt t.nodes i = Node.zero) ∧ (∀ y, t.codeAt y = CodeEntry.zero) ∧
      t.result = s.result ∧ t.irqDone = s.irqDone ∧ t.errFirst = s.errFirst ∧ t.errFirstOp = s.errFirstOp ∧
      t.errLast = s.errLast ∧ t.freqTotal = s.freqTotal ∧ t.dropCnt = s.dropCnt ∧ t.distinct = s.distinct ∧
      t.root = s.root ∧ t.nodeCnt = s.nodeCnt ∧ t.treeValid = s.treeValid ∧
      t.params = s.params ∧ t.rstN = s.rstN ∧ t.epoch = s.epoch ∧ t.host = s.host ∧
      KeepsAllBut [.counts, .tree, .codes, .env] s t

/-- 70 R287: an action that is pending while `rst_n` stays high is performed after a bounded number of host steps, the
number the schedule P3 gives it (92 P3; the free value is bounded by nothing else). Rests on log 2, the model's form of the
fairness the rule asks for. -/
def Obligations.EngineMovesInBoundedSteps : Prop :=
  ∀ s : State, s.rstN = true → s.pending ≠ .idle →
    (∀ op ∈ s.host.program.drop s.host.index, op ≠ .rstLow) →
    ∃ k u, k ≤ s.sched.left ∧ runSteps k s = .next u ∧ u.engineTurn = true ∧ u.pending = s.pending

/-- 10 R65, 70 R270, R272, R285, 93 U1, U2: right after reset release, for any parameters, BUSY is 1, every other STATUS bit
and every register that holds a value reads 0, `irq` is low and INIT is pending; a rising edge of `rst_n` leads there and
draws every byte of the byte memories anew; while the pin is low a host access is refused. -/
def Obligations.ResetPin : Prop :=
  (∀ p : Params, (State.resetWith p).pending = .init ∧ (State.resetWith p).statusWord = 1#32 ∧
    (State.resetWith p).irq = false ∧
    (∀ r, r ∉ [Reg.id, .status, .cartCap, .outCap] → (State.resetWith p).readReg r = 0#32)) ∧
  (∀ s : State, s.rstN = false → ∃ t, hostOp s .rstHigh = .next t ∧ t.rstN = true ∧ t.pending = .init ∧
    t.statusWord = 1#32 ∧ t.irq = false ∧ t.params = s.params ∧
    (∀ r, r ∉ [Reg.id, .status, .cartCap, .outCap] → t.readReg r = 0#32) ∧
    (∀ m a, t.memRead m a = Config.powerOnByte m t.epoch a) ∧ t.epoch = s.epoch + 1) ∧
  (∀ (s : State) (a : Offset) (d : Word), s.rstN = false →
    hostOp s (.write a d) = .refused .accessInReset ∧ hostOp s (.read a) = .refused .accessInReset ∧
      hostOp s .wait = .refused .accessInReset)

/-! ### Invariants -/

/-- Every invariant holds right after reset, for every legal choice of the parameters. HSIZE 0 (in IdleInv) is the model's
choice of log 5, and the zero NODE and CODE that TreeInv and CodeInv lean on are that of log 7: 10 R65 gives none of them a
value before INIT. -/
def Obligations.InvariantsAtReset : Prop :=
  ∀ p : Params, p.Legal →
    MemInv (State.resetWith p) ∧ OutInv (State.resetWith p) ∧ CountInv (State.resetWith p) ∧
      TreeInv (State.resetWith p) ∧ CodeInv (State.resetWith p) ∧ ErrInv (State.resetWith p) ∧
      IdleInv (State.resetWith p)

/-- 10 R56 to R58, 20 R83, R85: every step keeps the canonical form of the byte memories: no access of the engine or the
host leaves the bytes a memory has. -/
def Obligations.StepKeepsMemoryForm : Prop :=
  ∀ s t : State, MemInv s → step s = .next t → MemInv t

/-- 10 R41, R43: every step keeps FREQ_TOTAL the sum of FREQ and DISTINCT the number of nonzero counts, so no counter
wraps. -/
def Obligations.StepKeepsCounts : Prop :=
  ∀ s t : State, CountInv s → step s = .next t → CountInv t

/-- 10 R44, R45, R52, R53, R62: every step keeps TREE_VALID's promise: a tree with distinct leaf symbols from ROOT that
visits every allocated slot exactly once. -/
def Obligations.StepKeepsTree : Prop :=
  ∀ s t : State, TreeInv s → step s = .next t → TreeInv t

/-- 10 R54, R63: every step keeps CODES_VALID's promise, CODE is the table of the current tree, and CBITS zero past
CLEN. -/
def Obligations.StepKeepsCodes : Prop :=
  ∀ s t : State, TreeInv s → CodeInv s → step s = .next t → CodeInv t

/-- 10 R37, R40, R48, R58, 60 R240, R241, 93 U7: every step keeps the error registers, RESULT's detail, and OUT a text of
symbols within OUT_BYTES. -/
def Obligations.StepKeepsErrorAndOut : Prop :=
  ∀ s t : State, step s = .next t → (ErrInv s → ErrInv t) ∧ (OutInv s → OutInv t) ∧ (IdleInv s → IdleInv t)

/-- 70 R287, 10 R61: in every state the spec allows, every command completes. -/
def Obligations.EveryCommandCompletes : Prop :=
  ∀ (s : State) (i : Instr), CountInv s → TreeInv s → s.pending ≠ .init → ∃ t, exec i s = .next t

/-- 20 R91, 70 R285, R287: in every state the spec allows, a step answers a next state, but for the one host access the
spec refuses, in reset. -/
def Obligations.StepStopsOnlyInReset : Prop :=
  ∀ s : State, CountInv s → TreeInv s →
    (∃ t, step s = .next t) ∨ (s.rstN = false ∧ step s = .refused .accessInReset)

/-! ### What every command does and leaves alone -/

/-- The frame of every command (10 R62, R63, 60 R246 and each command's rule): it changes nothing but the completion state
and the pieces its rule names, whether it succeeds or fails. So only BUILD, DESER and SRST rewrite the tree; of the
validity flags only CODEGEN sets CODES_VALID, only BUILD and DESER set TREE_VALID, and no command that rewrites the tree
leaves CODES_VALID set. -/
def Obligations.CommandFrame : Prop :=
  ∀ (i : Instr) (s t : State), exec i s = .next t →
    KeepsAllBut (mayWrite i) s t ∧
    (t.codesValid = true → i = .codegen ∨ s.codesValid = true) ∧
    (t.treeValid = true → i = .build ∨ i = .deser ∨ s.treeValid = true) ∧
    (t.nodes ≠ s.nodes ∨ t.root ≠ s.root ∨ t.nodeCnt ≠ s.nodeCnt →
      (i = .build ∨ i = .deser ∨ i = .srst) ∧ t.codesValid = false)

/-- 10 R37, R39, R40, 60 R241, R244, R245, R251: every command that completes sets DONE, clears BUSY and never reports
BUSY_VIOLATION. Its first error is recorded with the opcode of the pending word; but for SRST, a first error already recorded
stays with its opcode, and a success leaves both. RESULT of a failure is 0, or 1 to 7 for CORRUPT_FORMAT. -/
def Obligations.CommandCompletion : Prop :=
  ∀ (i : Instr) (s t : State), exec i s = .next t →
    t.irqDone = true ∧ t.pending = .idle ∧ t.errLast ≠ .busyViolation ∧
    (i ≠ .srst → s.errFirst ≠ .noError → t.errFirst = s.errFirst ∧ t.errFirstOp = s.errFirstOp) ∧
    (i ≠ .srst → s.errFirst = .noError → t.errFirst = t.errLast) ∧
    (i ≠ .srst → t.errLast = .noError → t.errFirst = s.errFirst ∧ t.errFirstOp = s.errFirstOp) ∧
    (∀ w, s.pending = .command w → s.errFirst = .noError → t.errLast ≠ .noError →
      t.errFirstOp = w.extractLsb' 0 8) ∧
    (t.errLast ≠ .noError → t.errLast ≠ .corruptFormat → t.result = 0#32) ∧
    (t.errLast = .corruptFormat → 1 ≤ t.result.toNat ∧ t.result.toNat ≤ 7) ∧
    (i = .srst → t.errFirst = .noError ∧ t.errFirstOp = 0#8 ∧ t.errLast = .noError)

/-- 60 R251: once a first error is recorded, a step keeps it or clears it, and never replaces it by another. -/
def Obligations.FirstErrorNeverReplaced : Prop :=
  ∀ s t : State, step s = .next t → s.errFirst ≠ .noError → t.errFirst = s.errFirst ∨ t.errFirst = .noError

/-! ### Control -/

/-- 47 R230: NOP is the word 0; it completes with RESULT 0 and changes nothing else; the word with a nonzero reserved field
is illegal. -/
def Obligations.NopCompletes : Prop :=
  decode 0x00000000#32 = .ok .nop ∧
  (∀ w : Word, w.extractLsb' 0 8 = 0x00#8 → w.extractLsb' 8 24 ≠ 0#24 →
    ∀ s, ∃ t, runWord w s = .next t ∧ Failed s t .illegalCmd 0#32) ∧
  ∀ s : State, ∃ t, exec .nop s = .next t ∧ Completed s t 0#32 ∧ KeepsAllBut [] s t

/-- 47 R231: SRST clears the tables, the counters, the tree, the flags, the length registers and the first error, keeps CTRL
and every byte, and completes like any command; the word with a nonzero reserved field is illegal. -/
def Obligations.SrstClears : Prop :=
  decode 0x00000001#32 = .ok .srst ∧
  (∀ w : Word, w.extractLsb' 0 8 = 0x01#8 → w.extractLsb' 8 24 ≠ 0#24 →
    ∀ s, ∃ t, runWord w s = .next t ∧ Failed s t .illegalCmd 0#32) ∧
  ∀ s : State, ∃ t, exec .srst s = .next t ∧
    (∀ y, t.freqAt y = 0#32 ∧ t.codeAt y = CodeEntry.zero) ∧ (∀ i, nodeAt t.nodes i = Node.zero) ∧
    t.freqTotal = 0#32 ∧ t.dropCnt = 0#32 ∧ t.distinct = 0#8 ∧ t.root = 0#8 ∧ t.nodeCnt = 0#9 ∧
    t.treeValid = false ∧ t.codesValid = false ∧
    t.treeLen = 0#10 ∧ t.cartLen = 0#17 ∧ t.outLen = 0#17 ∧ t.treeUsed = 0#10 ∧
    t.errFirst = .noError ∧ t.errFirstOp = 0#8 ∧ t.errLast = .noError ∧
    t.result = 0#32 ∧ t.irqDone = true ∧ t.pending = .idle ∧
    (s.doneIe = false → s.errIe = false → t.statusWord = 0#32) ∧
    KeepsAllBut [.counts, .tree, .codes, .codesValid, .treeLen, .cartLen, .outLen, .treeUsed] s t

/-! ### Frequencies -/

/-- 41 R150: FREQ_CLR zeroes the counts and nothing else; the word with a nonzero reserved field is illegal. -/
def Obligations.FreqClrZeroesCounts : Prop :=
  decode 0x00000010#32 = .ok .freqClr ∧
  (∀ w : Word, w.extractLsb' 0 8 = 0x10#8 → w.extractLsb' 8 24 ≠ 0#24 →
    ∀ s, ∃ t, runWord w s = .next t ∧ Failed s t .illegalCmd 0#32) ∧
  ∀ s : State, ∃ t, exec .freqClr s = .next t ∧ (∀ y, t.freqAt y = 0#32) ∧ t.freqTotal = 0#32 ∧
    t.dropCnt = 0#32 ∧ t.distinct = 0#8 ∧ Completed s t 0#32 ∧ KeepsAllBut [.counts] s t

/-- 41 R151: FREQ_ADD drops an out-of-range character (DROP_CNT saturating), fails FREQ_OVERFLOW on a full total, and
otherwise counts the symbol. -/
def Obligations.FreqAddCounts : Prop :=
  ∀ (c : Nat) (s : State),
    (128 ≤ c → ∃ t, exec (.freqAdd c) s = .next t ∧ t.dropCnt.toNat = min (s.dropCnt.toNat + 1) 0xFFFFFFFF ∧
      t.freq = s.freq ∧ t.freqTotal = s.freqTotal ∧ t.distinct = s.distinct ∧
      Completed s t 0#32 ∧ KeepsAllBut [.counts] s t) ∧
    (c < 128 → s.freqTotal = 0xFFFFFFFF#32 →
      ∃ t, exec (.freqAdd c) s = .next t ∧ Failed s t .freqOverflow 0#32 ∧ KeepsAllBut [] s t) ∧
    (c < 128 → s.freqTotal ≠ 0xFFFFFFFF#32 →
      ∃ t, exec (.freqAdd c) s = .next t ∧
        (∀ y : Sym, t.freqAt y = if y.toNat = c then s.freqAt y + 1#32 else s.freqAt y) ∧
        t.freqTotal = s.freqTotal + 1#32 ∧ t.dropCnt = s.dropCnt ∧
        t.distinct = (if s.freqAt (BitVec.ofNat 7 c) = 0#32 then s.distinct + 1#8 else s.distinct) ∧
        Completed s t (s.freqAt (BitVec.ofNat 7 c) + 1#32) ∧ KeepsAllBut [.counts] s t)

/-- 41 R152: FREQ_CLR and then FREQ_ADD over a text leave the text's symbol counts, whatever the order. -/
def Obligations.FreqTableOfText : Prop :=
  ∀ (text : List Nat) (s : State), text.length < 2 ^ 32 →
    ∃ t, execAll (.freqClr :: text.map .freqAdd) s = .next t ∧
      (∀ y : Sym, (t.freqAt y).toNat = text.count y.toNat) ∧
      t.freqTotal.toNat = (inRange text).length ∧ t.distinct.toNat = (inRange text).dedup.length ∧
      t.dropCnt.toNat = text.countP (fun c => decide (128 ≤ c))

/-! ### Tree building -/

/-- 41 R153, 42 R166, R168: BUILD with nothing counted fails INVALID_INPUT and changes nothing; with something counted it makes a tree whose leaves are exactly the counted symbols, of `2k - 1` nodes
with the root last, and clears CODES_VALID. -/
def Obligations.BuildMakesTree : Prop :=
  (∀ s : State, s.distinct = 0#8 →
    ∃ t, exec .build s = .next t ∧ Failed s t .invalidInput 0#32 ∧ KeepsAllBut [] s t) ∧
  ∀ s : State, CountInv s → s.pending ≠ .init → s.distinct ≠ 0#8 →
    ∃ t tr, exec .build s = .next t ∧ t.tree? = some tr ∧ tr.symbols.Perm (countedSyms s) ∧
      TreeOk t.nodes t.root t.nodeCnt.toNat ∧ t.treeValid = true ∧ t.codesValid = false ∧
      t.nodeCnt.toNat = 2 * s.distinct.toNat - 1 ∧ t.root.toNat = 2 * s.distinct.toNat - 2 ∧
      Completed s t (t.root.setWidth 32) ∧ KeepsAllBut [.tree, .codesValid, .queue] s t

/-- 42 R163, R164, R168 b: after BUILD, slot `j` is the leaf of the `j`-th counted symbol in ascending order with its count;
the frequency of every internal node is the exact sum of its children's: no sum overflows; its LEFT, polled first, is no
more frequent than its RIGHT; and an internal node made later joins nodes no less frequent, so is no less frequent. -/
def Obligations.BuildNodeFrequencies : Prop :=
  ∀ s t : State, CountInv s → s.pending ≠ .init → s.distinct ≠ 0#8 → exec .build s = .next t →
    (∀ j (h : j < (countedSyms s).length),
      nodeAt t.nodes (BitVec.ofNat 8 j) = Node.mkLeaf (countedSyms s)[j] (s.freqAt (countedSyms s)[j])) ∧
    (∀ i : Slot, i.toNat < t.nodeCnt.toNat → (nodeAt t.nodes i).leaf = false →
      (nodeAt t.nodes i).nfreq.toNat =
        nodeKey t.nodes (nodeAt t.nodes i).left + nodeKey t.nodes (nodeAt t.nodes i).right ∧
      nodeKey t.nodes (nodeAt t.nodes i).left ≤ nodeKey t.nodes (nodeAt t.nodes i).right) ∧
    (∀ i k : Slot, i.toNat < k.toNat → k.toNat < t.nodeCnt.toNat → (nodeAt t.nodes i).leaf = false →
      (nodeAt t.nodes k).leaf = false ∧ nodeKey t.nodes i ≤ nodeKey t.nodes k ∧
        nodeKey t.nodes (nodeAt t.nodes i).right ≤ nodeKey t.nodes (nodeAt t.nodes k).left)

/-- 42 R163, R164, R166, R167, R169: BUILD offers the leaves of the counted symbols in ascending order, then polls two
entries and combines them, the first polled as LEFT and the second as RIGHT, until one entry is left, the root. -/
def Obligations.BuildCombinesPolled : Prop :=
  (∀ s : State, s.leavesOffered =
    (countedSyms s).foldl (fun b y => b.addLeaf y (s.freqAt y))
      { nodes := zeroNodes, cnt := 0, heap := s.heap, hsize := 0 }) ∧
  (∀ (b : Builder) (y : Sym) (f : Word), b.addLeaf y f =
    Builder.offer { b with nodes := setNode b.nodes (BitVec.ofNat 8 b.cnt) (Node.mkLeaf y f), cnt := b.cnt + 1 }
      (BitVec.ofNat 8 b.cnt)) ∧
  (∀ (b : Builder) (a c : Slot), b.combine a c =
    Builder.offer
      { b with
        nodes := setNode b.nodes (BitVec.ofNat 8 b.cnt)
          (Node.mkInternal ((nodeAt b.nodes a).nfreq + (nodeAt b.nodes c).nfreq) a c)
        cnt := b.cnt + 1 }
      (BitVec.ofNat 8 b.cnt)) ∧
  (∀ (b : Builder) (fuel : Nat), b.hsize ≤ fuel →
    (b.hsize = 1 → buildLoop fuel b = some b.poll) ∧
    (2 ≤ b.hsize → buildLoop fuel b = buildLoop fuel (b.poll.2.poll.2.combine b.poll.1 b.poll.2.poll.1))) ∧
  (∀ s t : State, s.distinct ≠ 0#8 → exec .build s = .next t →
    ∃ root b, buildLoop 128 s.leavesOffered = some (root, b) ∧ t.root = root ∧ t.nodes = b.nodes ∧
      t.nodeCnt = BitVec.ofNat 9 b.cnt)

/-- 42 R165: BUILD's tree is a function of the counts alone: two states with the same counts, whatever else they hold, the
stale HEAP among it, get the same NODE, ROOT and NODE_CNT. -/
def Obligations.BuildDependsOnCountsOnly : Prop :=
  ∀ s s' t t' : State, s'.freq = s.freq → s.distinct ≠ 0#8 → s'.distinct ≠ 0#8 →
    exec .build s = .next t → exec .build s' = .next t' →
    t'.nodes = t.nodes ∧ t'.root = t.root ∧ t'.nodeCnt = t.nodeCnt

/-- 42 R160, R161: `offer` adds the entry and keeps the heap order; an entry whose parent has an equal key stays below
it. It sifts up from position HSIZE: at the top, or under a parent no more frequent, the entry stays, else the parent comes
down and the sift goes on in its place. -/
def Obligations.HeapOfferKeepsOrder : Prop :=
  (∀ (b : Builder) (x : Slot), b.hsize < 128 → HeapOrdered b →
    HeapOrdered (b.offer x) ∧ (entries (b.offer x)).Perm (x :: entries b) ∧ (b.offer x).hsize = b.hsize + 1 ∧
      (b.offer x).nodes = b.nodes ∧
      (0 < b.hsize → nodeKey b.nodes x = nodeKey b.nodes (heapAt b.heap ((b.hsize - 1) / 2)) →
        entries (b.offer x) = entries b ++ [x])) ∧
  (∀ (b : Builder) (x : Slot) (fuel : Nat), b.hsize ≤ fuel →
    (b.offer x).heap = siftUp (nodeKey b.nodes) x fuel b.hsize b.heap) ∧
  (∀ (key : Slot → Nat) (x : Slot) (fuel k : Nat) (h : Vector Slot 128), k ≤ fuel →
    (k = 0 ∨ key (heapAt h ((k - 1) / 2)) ≤ key x → siftUp key x fuel k h = heapSet h k x) ∧
    (0 < k → key x < key (heapAt h ((k - 1) / 2)) →
      siftUp key x fuel k h = siftUp key x fuel ((k - 1) / 2) (heapSet h k (heapAt h ((k - 1) / 2)))))

/-- 42 R160, R162, R169: `poll` removes an entry of least frequency, the one at the top, and keeps the heap order. The last
entry sifts down from the top: it stops where it has no child or is no more frequent than its lesser child, the left one on
a tie; else that child comes up and the sift goes on in its place. -/
def Obligations.HeapPollTakesLeast : Prop :=
  (∀ b : Builder, 0 < b.hsize → b.hsize ≤ 128 → HeapOrdered b →
    b.poll.1 = heapAt b.heap 0 ∧ (∀ y ∈ entries b, nodeKey b.nodes b.poll.1 ≤ nodeKey b.nodes y) ∧
      HeapOrdered b.poll.2 ∧ (entries b).Perm (b.poll.1 :: entries b.poll.2) ∧ b.poll.2.hsize + 1 = b.hsize ∧
      b.poll.2.nodes = b.nodes) ∧
  (∀ (b : Builder) (fuel : Nat), 2 ≤ b.hsize → b.hsize ≤ fuel + 1 →
    b.poll.2.heap =
      siftDown (nodeKey b.nodes) (heapAt b.heap (b.hsize - 1)) (b.hsize - 1) fuel 0 b.heap) ∧
  (∀ (key : Slot → Nat) (x : Slot) (n fuel k : Nat) (h : Vector Slot 128), n ≤ fuel + k →
    (n / 2 ≤ k → siftDown key x n fuel k h = heapSet h k x) ∧
    (∀ c, k < n / 2 →
      c = (if 2 * k + 2 < n ∧ key (heapAt h (2 * k + 2)) < key (heapAt h (2 * k + 1)) then 2 * k + 2 else 2 * k + 1) →
      (key x ≤ key (heapAt h c) → siftDown key x n fuel k h = heapSet h k x) ∧
      (key (heapAt h c) < key x →
        siftDown key x n fuel k h = siftDown key x n fuel c (heapSet h k (heapAt h c)))))

/-! ### Codes -/

/-- 43 R175, R176: CODEGEN gives each leaf symbol its path as its code (a lone leaf the code 1), every other symbol none,
and RESULT the number of codes; with no tree it fails NO_TREE and changes nothing. -/
def Obligations.CodegenAssignsPaths : Prop :=
  (∀ s : State, TreeInv s → s.treeValid = true →
    ∃ t tr, s.tree? = some tr ∧ exec .codegen s = .next t ∧ t.codesValid = true ∧
      (∀ e ∈ codeWords tr, entryBits (t.codeAt e.1) = e.2) ∧
      (∀ y, y ∉ tr.symbols → t.codeAt y = CodeEntry.zero) ∧
      Completed s t (BitVec.ofNat 32 tr.symbols.length) ∧ KeepsAllBut [.codes, .codesValid] s t) ∧
  (∀ s : State, s.treeValid = false →
    ∃ t, exec .codegen s = .next t ∧ Failed s t .noTree 0#32 ∧ KeepsAllBut [] s t)

/-- 43 R177: while CODES_VALID is 1, no code is a prefix of another. -/
def Obligations.CodesPrefixFree : Prop :=
  ∀ s : State, TreeInv s → CodeInv s → s.codesValid = true →
    ∀ y z : Sym, y ≠ z → (s.codeAt y).clen ≠ 0#7 → (s.codeAt z).clen ≠ 0#7 →
      ¬ entryBits (s.codeAt y) <+: entryBits (s.codeAt z)

/-- 43 R178: while CODES_VALID is 1, a symbol has a code exactly when it is a leaf symbol of the current tree. -/
def Obligations.CodesComplete : Prop :=
  ∀ s : State, TreeInv s → CodeInv s → s.codesValid = true →
    ∃ tr, s.tree? = some tr ∧ ∀ y : Sym, 1 ≤ (s.codeAt y).clen.toNat ↔ y ∈ tr.symbols

/-! ### The bit buffer -/

/-- 40 R142, R143: BB_CREATE of at most PACK_BITS bits sets the header, zeroes the whole payload and sets CART_LEN; of more
it fails CAPACITY and changes nothing. -/
def Obligations.BbCreateZeroes : Prop :=
  ∀ (n : Nat) (s : State), s.params.Legal →
    (n ≤ 8 * (s.params.cartBytes - 4) →
      ∃ t, exec (.bbCreate n) s = .next t ∧ t.be32.toNat = n ∧ t.cartLen.toNat = 4 + ceil8 n ∧
        (∀ a, 4 ≤ a → a < s.params.cartBytes → t.memRead .cart a = 0#8) ∧
        (∀ a, s.params.cartBytes ≤ a → t.memRead .cart a = s.memRead .cart a) ∧
        Completed s t (BitVec.ofNat 32 (ceil8 n)) ∧ KeepsAllBut [.bytes .cart, .cartLen] s t) ∧
    (8 * (s.params.cartBytes - 4) < n →
      ∃ t, exec (.bbCreate n) s = .next t ∧ Failed s t .capacity 0#32 ∧ KeepsAllBut [] s t)

/-- 40 R140, R144: BB_SET of a bit below the declared count, whose byte is in CART, writes that bit and no other, in that
byte and no other; any other index fails BOUNDS and changes nothing. -/
def Obligations.BbSetWritesOneBit : Prop :=
  ∀ (i : Nat) (b : Bool) (s : State),
    (i < s.be32.toNat → 4 + i / 8 < s.params.cartBytes →
      ∃ t, exec (.bbSet i b) s = .next t ∧ t.getbit i = b ∧ (∀ j, j ≠ i → t.getbit j = s.getbit j) ∧
        (∀ a, a ≠ bitAddr i → t.memRead .cart a = s.memRead .cart a) ∧ t.be32 = s.be32 ∧
        Completed s t 0#32 ∧ KeepsAllBut [.bytes .cart] s t) ∧
    (s.be32.toNat ≤ i ∨ s.params.cartBytes ≤ 4 + i / 8 →
      ∃ t, exec (.bbSet i b) s = .next t ∧ Failed s t .bounds 0#32 ∧ KeepsAllBut [] s t)

/-- 40 R145: BB_GET of a bit below the declared count, whose byte is in CART, answers it as 0 or 1 and changes nothing; any
other index fails BOUNDS. -/
def Obligations.BbGetReadsBit : Prop :=
  ∀ (i : Nat) (s : State),
    (i < s.be32.toNat → 4 + i / 8 < s.params.cartBytes →
      ∃ t, exec (.bbGet i) s = .next t ∧
        Completed s t (if (s.memRead .cart (4 + i / 8)).getLsbD (i % 8) then 1#32 else 0#32) ∧ KeepsAllBut [] s t) ∧
    (s.be32.toNat ≤ i ∨ s.params.cartBytes ≤ 4 + i / 8 →
      ∃ t, exec (.bbGet i) s = .next t ∧ Failed s t .bounds 0#32 ∧ KeepsAllBut [] s t)

/-! ### Encoding a text -/

/-- 44 R185: an out-of-range character succeeds with the unchanged bit count; otherwise NO_CODES, NO_CODE and CAPACITY are
checked in this order; in all these cases nothing but the completion state changes. -/
def Obligations.EncCharWithoutAppend : Prop :=
  ∀ (c : Nat) (s : State),
    (128 ≤ c → ∃ t, exec (.encChar c) s = .next t ∧ Completed s t s.be32 ∧ KeepsAllBut [] s t) ∧
    (c < 128 → s.codesValid = false →
      ∃ t, exec (.encChar c) s = .next t ∧ Failed s t .noCodes 0#32 ∧ KeepsAllBut [] s t) ∧
    (c < 128 → s.codesValid = true → (s.codeAt (BitVec.ofNat 7 c)).clen = 0#7 →
      ∃ t, exec (.encChar c) s = .next t ∧ Failed s t .noCode 0#32 ∧ KeepsAllBut [] s t) ∧
    (c < 128 → s.codesValid = true → (s.codeAt (BitVec.ofNat 7 c)).clen ≠ 0#7 →
      s.params.cartBytes < 4 + ceil8 (s.be32.toNat + (s.codeAt (BitVec.ofNat 7 c)).clen.toNat) →
      ∃ t, exec (.encChar c) s = .next t ∧ Failed s t .capacity 0#32 ∧ KeepsAllBut [] s t)

/-- 44 R185: an in-range character with a code that fits has its code appended to the declared stream, code bit 0 first;
no bit of the stream before it, no bit after it and no byte outside the appended bits' bytes and the header changes. -/
def Obligations.EncCharAppends : Prop :=
  ∀ (c : Nat) (s : State), s.params.Legal → c < 128 → s.codesValid = true →
    (s.codeAt (BitVec.ofNat 7 c)).clen ≠ 0#7 →
    4 + ceil8 (s.be32.toNat + (s.codeAt (BitVec.ofNat 7 c)).clen.toNat) ≤ s.params.cartBytes →
    ∃ t, exec (.encChar c) s = .next t ∧
      streamOf t = streamOf s ++ entryBits (s.codeAt (BitVec.ofNat 7 c)) ∧
      t.be32.toNat = s.be32.toNat + (s.codeAt (BitVec.ofNat 7 c)).clen.toNat ∧
      t.cartLen.toNat = 4 + ceil8 t.be32.toNat ∧
      (∀ i, t.be32.toNat ≤ i → t.getbit i = s.getbit i) ∧
      (∀ a, 4 ≤ a → a < bitAddr s.be32.toNat ∨ 4 + ceil8 t.be32.toNat ≤ a → t.memRead .cart a = s.memRead .cart a) ∧
      Completed s t t.be32 ∧ KeepsAllBut [.bytes .cart, .cartLen] s t

/-- 44 R186, 40 R147: ENC_BEGIN and then ENC_CHAR over a text whose symbols all have codes, when the codes fit, leaves their
codes concatenated in text order, CART_LEN right, and every later payload bit 0. -/
def Obligations.EncodeTextConcatenates : Prop :=
  ∀ (text : List Nat) (s : State), s.params.Legal → s.codesValid = true →
    (∀ y ∈ inRange text, (s.codeAt y).clen ≠ 0#7) →
    ((inRange text).flatMap (fun y => entryBits (s.codeAt y))).length ≤ 8 * (s.params.cartBytes - 4) →
    ∃ t, execAll (encBegin :: text.map .encChar) s = .next t ∧
      streamOf t = (inRange text).flatMap (fun y => entryBits (s.codeAt y)) ∧
      t.be32.toNat = ((inRange text).map (fun y => (s.codeAt y).clen.toNat)).sum ∧ t.cartLen.toNat = 4 + ceil8 t.be32.toNat ∧
      (∀ i, t.be32.toNat ≤ i → i < 8 * (s.params.cartBytes - 4) → t.getbit i = false) ∧
      KeepsAllBut [.bytes .cart, .cartLen] s t

/-- 44 R187, 43 R176: with a lone-leaf tree, `n` copies of its symbol encode to `n` bits, each 1, in `ceil8(n)` payload
bytes. -/
def Obligations.SingleSymbolEncodesToOnes : Prop :=
  ∀ (n : Nat) (y : Sym) (s : State), s.params.Legal → CodeInv s → s.codesValid = true → s.tree? = some (.leaf y) →
    n ≤ 8 * (s.params.cartBytes - 4) →
    ∃ t, execAll (encBegin :: (List.replicate n y.toNat).map .encChar) s = .next t ∧
      streamOf t = List.replicate n true ∧ t.be32.toNat = n ∧ t.cartLen.toNat = 4 + ceil8 n

/-! ### Decoding -/

/-- 45 R195: DECODE checks NO_TREE, then detail 6, then detail 7; each failure sets OUT_LEN to 0 and changes nothing
else. -/
def Obligations.DecodeRejects : Prop :=
  ∀ s : State,
    (s.treeValid = false →
      ∃ t, exec .decode s = .next t ∧ t.outLen = 0#17 ∧ Failed s t .noTree 0#32 ∧ KeepsAllBut [.outLen] s t) ∧
    (s.treeValid = true → min s.cartLen.toNat s.params.cartBytes < 4 →
      ∃ t, exec .decode s = .next t ∧ t.outLen = 0#17 ∧ Failed s t .corruptFormat 6#32 ∧ KeepsAllBut [.outLen] s t) ∧
    (s.treeValid = true → 4 ≤ min s.cartLen.toNat s.params.cartBytes →
      min s.cartLen.toNat s.params.cartBytes < 4 + ceil8 s.be32.toNat →
      ∃ t, exec .decode s = .next t ∧ t.outLen = 0#17 ∧ Failed s t .corruptFormat 7#32 ∧ KeepsAllBut [.outLen] s t)

/-- 45 R195, R196, R199: with a tree of two or more leaves, DECODE writes the symbols that the complete codes of the
declared stream name, in order, and discards a partial code at the end; when OUT is too small it fails CAPACITY with the
symbols that fitted in OUT and OUT_LEN 0. -/
def Obligations.DecodeWalksTree : Prop :=
  ∀ (s : State) (l r : Tree), s.params.Legal → s.treeValid = true → s.tree? = some (.node l r) →
    4 + ceil8 s.be32.toNat ≤ min s.cartLen.toNat s.params.cartBytes →
    ((decodeBits (.node l r) (.node l r) (streamOf s)).length ≤ s.params.outBytes →
      ∃ t k, exec .decode s = .next t ∧ k = (decodeBits (.node l r) (.node l r) (streamOf s)).length ∧
        bytesFrom t .out 0 k = (decodeBits (.node l r) (.node l r) (streamOf s)).map (fun y => y.setWidth 8) ∧
        (∀ a, k ≤ a → t.memRead .out a = s.memRead .out a) ∧ t.outLen.toNat = k ∧
        Completed s t (BitVec.ofNat 32 k) ∧ KeepsAllBut [.outLen, .bytes .out] s t) ∧
    (s.params.outBytes < (decodeBits (.node l r) (.node l r) (streamOf s)).length →
      ∃ t, exec .decode s = .next t ∧
        bytesFrom t .out 0 s.params.outBytes =
          ((decodeBits (.node l r) (.node l r) (streamOf s)).take s.params.outBytes).map (fun y => y.setWidth 8) ∧
        (∀ a, s.params.outBytes ≤ a → t.memRead .out a = s.memRead .out a) ∧ t.outLen = 0#17 ∧
        Failed s t .capacity 0#32 ∧ KeepsAllBut [.outLen, .bytes .out] s t)

/-- 45 R195, R197, R198: with a lone-leaf tree each 1-bit emits its symbol; the first 0-bit that OUT's size lets the walk
reach fails BAD_PATH with the symbols before it in OUT; a 1-bit met with OUT full fails CAPACITY with OUT full. -/
def Obligations.DecodeLoneLeaf : Prop :=
  ∀ (s : State) (y : Sym), s.params.Legal → s.treeValid = true → s.tree? = some (.leaf y) →
    4 + ceil8 s.be32.toNat ≤ min s.cartLen.toNat s.params.cartBytes →
    (s.be32.toNat ≤ s.params.outBytes → (∀ i, i < s.be32.toNat → s.getbit i = true) →
      ∃ t, exec .decode s = .next t ∧
        (∀ a, t.memRead .out a = if a < s.be32.toNat then y.setWidth 8 else s.memRead .out a) ∧
        t.outLen.toNat = s.be32.toNat ∧ Completed s t s.be32 ∧ KeepsAllBut [.outLen, .bytes .out] s t) ∧
    (∀ j, j < s.be32.toNat → j ≤ s.params.outBytes → s.getbit j = false → (∀ i, i < j → s.getbit i = true) →
      ∃ t, exec .decode s = .next t ∧
        (∀ a, t.memRead .out a = if a < j then y.setWidth 8 else s.memRead .out a) ∧
        t.outLen = 0#17 ∧ Failed s t .badPath 0#32 ∧ KeepsAllBut [.outLen, .bytes .out] s t) ∧
    (s.params.outBytes < s.be32.toNat → (∀ i, i ≤ s.params.outBytes → s.getbit i = true) →
      ∃ t, exec .decode s = .next t ∧
        (∀ a, t.memRead .out a = if a < s.params.outBytes then y.setWidth 8 else s.memRead .out a) ∧
        t.outLen = 0#17 ∧ Failed s t .capacity 0#32 ∧ KeepsAllBut [.outLen, .bytes .out] s t)

/-- 45 R200, R201: the round trip. Count a text with a symbol in it, build, generate codes, encode the text, serialize and
deserialize the tree (or leave these two out), decode: if OUT is large enough and no command of the session failed (no first error was recorded), OUT
holds the text's in-range characters and OUT_LEN their number. -/
def Obligations.SessionRoundTrip : Prop :=
  ∀ (text : List Nat) (copy : List Instr) (s : State), copy = [.ser, .deser] ∨ copy = [] → MemInv s →
    s.errFirst = .noError → inRange text ≠ [] → (inRange text).length ≤ s.params.outBytes →
    ∃ t, execAll
        ((.freqClr :: text.map .freqAdd) ++ [.build, .codegen, encBegin] ++ text.map .encChar ++ copy ++
          [.decode]) s = .next t ∧
      (t.errFirst = .noError →
        bytesFrom t .out 0 (inRange text).length = (inRange text).map (fun y => y.setWidth 8) ∧
        t.outLen.toNat = (inRange text).length)

/-! ### Serialization -/

/-- 46 R211, R212: SER writes the pre-order artifact of the tree of `k` leaves, `3k - 1` bytes, from byte 0 of TREE_MEM, and
nothing past it; with no tree it fails NO_TREE and changes nothing. -/
def Obligations.SerWritesArtifact : Prop :=
  (∀ s : State, TreeInv s → s.treeValid = true →
    ∃ t tr n, s.tree? = some tr ∧ exec .ser s = .next t ∧ n = 3 * tr.symbols.length - 1 ∧
      IsArtifact (bytesFrom t .tree 0 n) tr ∧ (∀ a, n ≤ a → t.memRead .tree a = s.memRead .tree a) ∧
      t.treeLen.toNat = n ∧ n ≤ 383 ∧
      Completed s t (BitVec.ofNat 32 n) ∧ KeepsAllBut [.bytes .tree, .treeLen] s t) ∧
  (∀ s : State, s.treeValid = false →
    ∃ t, exec .ser s = .next t ∧ Failed s t .noTree 0#32 ∧ KeepsAllBut [] s t)

/-- 46 R215 to R217: DESER of an artifact of a tree with distinct symbols and at most 255 nodes rebuilds that tree from slot
0, with no frequencies, whatever bytes follow it and whatever tree was there. -/
def Obligations.DeserRebuildsTree : Prop :=
  ∀ (s : State) (bs : List Byte) (tr : Tree), IsArtifact bs tr → tr.symbols.Nodup → tr.size ≤ 255 →
    bytesFrom s .tree 0 bs.length = bs → bs.length ≤ min s.treeLen.toNat 512 →
    ∃ t, exec .deser s = .next t ∧ t.tree? = some tr ∧ t.treeValid = true ∧ t.codesValid = false ∧
      t.root = 0#8 ∧ t.nodeCnt.toNat = tr.size ∧ t.treeUsed.toNat = bs.length ∧
      (∀ i, (nodeAt t.nodes i).nfreq = 0#32) ∧
      Completed s t (BitVec.ofNat 32 bs.length) ∧ KeepsAllBut [.tree, .codesValid, .treeUsed] s t

/-- 46 R215, R216, 95 V5: DESER of a tree artifact cut short fails CORRUPT_FORMAT detail 1 and leaves no tree at all. -/
def Obligations.DeserRejectsTruncated : Prop :=
  ∀ (s : State) (bs : List Byte) (tr : Tree), IsArtifact bs tr → tr.symbols.Nodup → tr.size ≤ 255 →
    s.treeLen.toNat < bs.length → bytesFrom s .tree 0 s.treeLen.toNat = bs.take s.treeLen.toNat →
    ∃ t, exec .deser s = .next t ∧ Failed s t .corruptFormat 1#32 ∧ t.treeValid = false ∧ t.codesValid = false ∧
      (∀ i, nodeAt t.nodes i = Node.zero) ∧ t.root = 0#8 ∧ t.nodeCnt = 0#9 ∧ t.treeUsed = 0#10

/-- 46 R215, R219: DESER either leaves a tree that meets 10 R62 and CODES_VALID 0, or fails CORRUPT_FORMAT with a detail
from 1 to 5 and leaves no tree: never a partial one. -/
def Obligations.DeserAllOrNothing : Prop :=
  ∀ s : State, ∃ t, exec .deser s = .next t ∧ t.codesValid = false ∧
    ((TreeOk t.nodes t.root t.nodeCnt.toNat ∧ t.treeValid = true ∧
        Completed s t (t.treeUsed.setWidth 32) ∧ t.treeUsed.toNat ≤ min s.treeLen.toNat 512) ∨
      (∃ d : Word, 1 ≤ d.toNat ∧ d.toNat ≤ 5 ∧ Failed s t .corruptFormat d ∧ t.treeValid = false ∧
        (∀ i, nodeAt t.nodes i = Node.zero) ∧ t.root = 0#8 ∧ t.nodeCnt = 0#9 ∧ t.treeUsed = 0#10))

/-- 46 R213, R214: DESER consumes the bytes, or fails with the detail, that one pass over the bytes present gives, whichever
node the first failing check is at; spelled out, the details at the root of the artifact in the order of the checks, for a
duplicate symbol in the smallest tree, and for a 256th node. -/
def Obligations.DeserDetails : Prop :=
  ∀ (s : State) (n : Nat), n = min s.treeLen.toNat 512 →
    (∀ p, deserScan (bytesFrom s .tree 0 n) 1 0 [] 0 = .ok p →
      ∃ t, exec .deser s = .next t ∧ t.treeUsed.toNat = p ∧ Completed s t (BitVec.ofNat 32 p)) ∧
    (∀ d, deserScan (bytesFrom s .tree 0 n) 1 0 [] 0 = .error d →
      ∃ t, exec .deser s = .next t ∧ Failed s t .corruptFormat (BitVec.ofNat 32 d)) ∧
    (n = 0 → ∃ t, exec .deser s = .next t ∧ Failed s t .corruptFormat 1#32) ∧
    (1 ≤ n → s.memRead .tree 0 ≠ 0#8 → s.memRead .tree 0 ≠ 1#8 →
      ∃ t, exec .deser s = .next t ∧ Failed s t .corruptFormat 2#32) ∧
    (n = 1 → s.memRead .tree 0 = 1#8 → ∃ t, exec .deser s = .next t ∧ Failed s t .corruptFormat 1#32) ∧
    (2 ≤ n → s.memRead .tree 0 = 1#8 → 128 ≤ (s.memRead .tree 1).toNat →
      ∃ t, exec .deser s = .next t ∧ Failed s t .corruptFormat 3#32) ∧
    (5 ≤ n → s.memRead .tree 0 = 0#8 → s.memRead .tree 1 = 1#8 → (s.memRead .tree 2).toNat < 128 →
      s.memRead .tree 3 = 1#8 → s.memRead .tree 4 = s.memRead .tree 2 →
      ∃ t, exec .deser s = .next t ∧ Failed s t .corruptFormat 4#32) ∧
    (256 ≤ n → (∀ a, a < 256 → s.memRead .tree a = 0#8) →
      ∃ t, exec .deser s = .next t ∧ Failed s t .corruptFormat 5#32)

/-- 46 R218: SER and then DESER give back the same leaf symbols at the same paths, so the same codes, and TREE_USED is SER's
length; frequencies become 0. -/
def Obligations.SerDeserRoundTrip : Prop :=
  ∀ s : State, TreeInv s → s.treeValid = true →
    ∃ t tr, s.tree? = some tr ∧ execAll [.ser, .deser] s = .next t ∧ t.tree? = some tr ∧ t.treeValid = true ∧
      t.treeUsed = t.treeLen ∧ t.result = t.treeLen.setWidth 32 ∧ (∀ i, (nodeAt t.nodes i).nfreq = 0#32)

/-! ### The bus -/

/-- 20 R82, R84: a misaligned or unmapped transaction returns BUSERR and changes no state, BUSY or not. -/
def Obligations.BadOffsetIsBusError : Prop :=
  ∀ (s : State) (a : Offset) (d : Word), a.toNat % 4 ≠ 0 ∨ ¬ Mapped s.params a.toNat →
    s.busRead a = (.busErr, s) ∧ s.busWrite a d = (.busErr, s)

/-- 70 R281, R282, 60 R249: a mapped, aligned access to the data group while BUSY is discarded: a read returns 0, a write
OK, and only the first error may change, to 0x0B with opcode 0xFF. -/
def Obligations.BusyViolationIsDiscarded : Prop :=
  ∀ (s : State) (a : Offset) (d : Word), s.params.Legal → s.pending ≠ .idle → a.toNat % 4 = 0 →
    Mapped s.params a.toNat → a.toNat ∉ ctlOffsets →
    ∃ u, s.busRead a = (.word 0#32, u) ∧ s.busWrite a d = (.ok, u) ∧
      u = { s with errFirst := u.errFirst, errFirstOp := u.errFirstOp } ∧
      (s.errFirst ≠ .noError → u = s) ∧
      (s.errFirst = .noError → u.errFirst.byte = 0x0B#8 ∧ u.errFirstOp = 0xFF#8)

/-- 10 R66, 20 R83, R89, 70 R281: a mapped, aligned read of the `ctl` group, or of anything while idle, returns a word and
changes nothing; such a write to an offset that is not writable is OK and changes nothing. -/
def Obligations.ReadsPureReadOnlyIgnored : Prop :=
  ∀ (s : State) (a : Offset) (d : Word), s.params.Legal → a.toNat % 4 = 0 → Mapped s.params a.toNat →
    s.pending = .idle ∨ a.toNat ∈ ctlOffsets →
    (∃ w, s.busRead a = (.word w, s)) ∧ (¬ Writable s.params a.toNat → s.busWrite a d = (.ok, s))

/-- 10 R36 to R39, R46, R47, 70 R281: what the register writes do. At any time, BUSY or not, ERR clears the first error and
keeps LAST_CODE, CTRL takes two bits and IRQ_STAT is write-1-to-clear; while idle CMD issues the command and the length
registers take their bits. -/
def Obligations.RegisterWrites : Prop :=
  ∀ (s : State) (d : Word),
    s.busWrite 0x00C#18 d = (.ok, { s with errFirst := .noError, errFirstOp := 0#8 }) ∧
    s.busWrite 0x010#18 d = (.ok, { s with doneIe := d.getLsbD 0, errIe := d.getLsbD 1 }) ∧
    s.busWrite 0x014#18 d = (.ok, { s with irqDone := if d.getLsbD 0 then false else s.irqDone }) ∧
    (s.pending = .idle →
      s.busWrite 0x008#18 d = (.ok, { s with pending := .command d }) ∧
      s.busWrite 0x030#18 d = (.ok, { s with treeLen := d.extractLsb' 0 10 }) ∧
      s.busWrite 0x034#18 d = (.ok, { s with cartLen := d.extractLsb' 0 17 }))

/-- 10 R31, R35 to R50, 60 R240, 70 R281: what the registers read, those of the `ctl` group at any time and the others while
idle, and the numbers of the error codes. -/
def Obligations.RegisterReads : Prop :=
  (∀ s : State,
    s.busRead 0x000#18 = (.word 0x48554631#32, s) ∧
    s.busRead 0x004#18 =
      (.word (0#27 ++ BitVec.ofBool s.irq ++ BitVec.ofBool (decide (s.errFirst ≠ .noError)) ++
        BitVec.ofBool s.codesValid ++ BitVec.ofBool s.treeValid ++ BitVec.ofBool (decide (s.pending ≠ .idle))), s) ∧
    s.busRead 0x00C#18 = (.word (0#8 ++ s.errLast.byte ++ s.errFirstOp ++ s.errFirst.byte), s) ∧
    s.busRead 0x010#18 = (.word (0#30 ++ BitVec.ofBool s.errIe ++ BitVec.ofBool s.doneIe), s) ∧
    s.busRead 0x014#18 = (.word (0#31 ++ BitVec.ofBool s.irqDone), s) ∧
    s.busRead 0x040#18 = (.word (BitVec.ofNat 32 s.params.cartBytes), s) ∧
    s.busRead 0x044#18 = (.word (BitVec.ofNat 32 s.params.outBytes), s)) ∧
  (∀ s : State, s.pending = .idle →
    (s.busRead 0x008#18).1 = .word 0#32 ∧
    (s.busRead 0x018#18).1 = .word s.result ∧ (s.busRead 0x01C#18).1 = .word s.freqTotal ∧
    (s.busRead 0x020#18).1 = .word s.dropCnt ∧ (s.busRead 0x024#18).1 = .word (0#24 ++ s.distinct) ∧
    (s.busRead 0x028#18).1 = .word (0#24 ++ s.root) ∧ (s.busRead 0x02C#18).1 = .word (0#23 ++ s.nodeCnt) ∧
    (s.busRead 0x030#18).1 = .word (0#22 ++ s.treeLen) ∧ (s.busRead 0x034#18).1 = .word (0#15 ++ s.cartLen) ∧
    (s.busRead 0x038#18).1 = .word (0#15 ++ s.outLen) ∧ (s.busRead 0x03C#18).1 = .word (0#22 ++ s.treeUsed)) ∧
  (ErrCode.noError.byte = 0x00#8 ∧ ErrCode.illegalCmd.byte = 0x01#8 ∧ ErrCode.invalidInput.byte = 0x02#8 ∧
    ErrCode.corruptFormat.byte = 0x03#8 ∧ ErrCode.bounds.byte = 0x04#8 ∧ ErrCode.noTree.byte = 0x05#8 ∧
    ErrCode.noCodes.byte = 0x06#8 ∧ ErrCode.noCode.byte = 0x07#8 ∧ ErrCode.capacity.byte = 0x08#8 ∧
    ErrCode.badPath.byte = 0x09#8 ∧ ErrCode.freqOverflow.byte = 0x0A#8 ∧ ErrCode.busyViolation.byte = 0x0B#8)

/-- 10 R51, R53, R55, 20 R88: what the table windows read while idle, and the CART header, whose declared bit count a host
read returns byte-swapped. -/
def Obligations.TableWindows : Prop :=
  ∀ s : State, s.pending = .idle →
    (∀ y : Sym, (s.busRead (BitVec.ofNat 18 (0x400 + 4 * y.toNat))).1 = .word (s.freqAt y)) ∧
    (∀ i : Slot,
      (s.busRead (BitVec.ofNat 18 (0x800 + 8 * i.toNat))).1 =
        .word (0#8 ++ (nodeAt s.nodes i).right ++ (nodeAt s.nodes i).left ++
          BitVec.ofBool (nodeAt s.nodes i).leaf ++ (nodeAt s.nodes i).sym) ∧
      (s.busRead (BitVec.ofNat 18 (0x804 + 8 * i.toNat))).1 = .word (nodeAt s.nodes i).nfreq) ∧
    (∀ (y : Sym) (k : Nat), k < 8 →
      (s.busRead (BitVec.ofNat 18 (0x1000 + 32 * y.toNat + 4 * k))).1 =
        .word (if k = 0 then 0#25 ++ (s.codeAt y).clen
          else if k ≤ 4 then (s.codeAt y).cbits.extractLsb' (32 * (k - 1)) 32 else 0#32)) ∧
    (s.params.Legal → (s.busRead 0x10000#18).1 =
      .word (s.be32.extractLsb' 0 8 ++ s.be32.extractLsb' 8 8 ++ s.be32.extractLsb' 16 8 ++ s.be32.extractLsb' 24 8))

/-- 20 R85: while idle, the word at `4w` of a byte window packs bytes `4w` to `4w + 3` little-endian; a word written to
the window of TREE_MEM or CART writes those four, changes no other byte and nothing else of the state, and reads back. -/
def Obligations.ByteWindowsLittleEndian : Prop :=
  ∀ (s : State) (m : ByteMem) (base w : Nat), s.params.Legal → s.pending = .idle →
    (m = .tree ∧ base = 0x2000) ∨ (m = .cart ∧ base = 0x10000) ∨ (m = .out ∧ base = 0x20000) →
    4 * w < memSize s.params m →
    (∃ v : Word, s.busRead (BitVec.ofNat 18 (base + 4 * w)) = (.word v, s) ∧
      ∀ k, k < 4 → v.extractLsb' (8 * k) 8 = s.memRead m (4 * w + k)) ∧
    (m ≠ .out → ∀ d : Word, ∃ t, s.busWrite (BitVec.ofNat 18 (base + 4 * w)) d = (.ok, t) ∧
      (∀ k, k < 4 → t.memRead m (4 * w + k) = d.extractLsb' (8 * k) 8) ∧
      (∀ a, a < 4 * w ∨ 4 * w + 4 ≤ a → t.memRead m a = s.memRead m a) ∧
      t.busRead (BitVec.ofNat 18 (base + 4 * w)) = (.word d, t) ∧
      (∃ x, t = s.setMem m x))

/-- 60 R252, R253, R255: the `irq` level, which STATUS.IRQ reads. -/
def Obligations.IrqLevel : Prop :=
  ∀ s : State,
    (s.irq = true ↔ (s.doneIe = true ∧ s.irqDone = true) ∨ (s.errIe = true ∧ s.errFirst ≠ .noError)) ∧
    s.statusWord.getLsbD 4 = s.irq

/-- 30 R124, R125: out of reset, W performs BusWrite and R performs BusRead, each leaving the block as the bus transaction
does and advancing the program index by one, and R records what it returns; WAIT reads STATUS, leaves the block as it is, and
stays while BUSY is 1. When it is not the engine's turn, a step performs the operation at the program index. The model's
choices: that `lastResp` keeps every response and that WAIT's reads are recorded (log 15), when it is the engine's turn and
that a host step counts the schedule down while BUSY (log 2), and the idle step once the program has ended (log 11). -/
def Obligations.HostOperations : Prop :=
  (∀ s : State, s.rstN = true →
    hostOp s .wait = .next { s with host := { s.host with
      lastResp := .word s.statusWord, recorded := s.host.recorded ++ [.word s.statusWord]
      index := if s.pending = .idle then s.host.index + 1 else s.host.index } } ∧
    (∀ a, hostOp s (.read a) = .next { (s.busRead a).2 with host := { s.host with
      lastResp := (s.busRead a).1, recorded := s.host.recorded ++ [(s.busRead a).1], index := s.host.index + 1 } }) ∧
    (∀ a d, hostOp s (.write a d) = .next { (s.busWrite a d).2 with host := { s.host with
      lastResp := (s.busWrite a d).1, index := s.host.index + 1 } })) ∧
  (∀ (s : State) (op : HostOp), s.engineTurn = false → s.host.program[s.host.index]? = some op →
    step s = hostOp (if s.rstN = true ∧ s.pending ≠ .idle then { s with sched := s.sched.tick } else s) op) ∧
  (∀ s : State, s.engineTurn = false → s.host.program.length ≤ s.host.index → step s = .next s)

/-- 30 R127, 20 R85: out of reset and while idle, WBYTES to the window of TREE_MEM or CART lands its bytes in window order,
pads its last word with zero bytes and changes no other byte, and RBYTES of as many bytes then gives them back. -/
def Obligations.RBytesInvertsWBytes : Prop :=
  ∀ (s : State) (m : ByteMem) (win w : Nat) (bs : List Byte), s.params.Legal → s.rstN = true → s.pending = .idle →
    (m = .tree ∧ win = 0x2000) ∨ (m = .cart ∧ win = 0x10000) → 4 * w + bs.length ≤ memSize s.params m →
    ∃ t, runHostOps (opsWBytes (BitVec.ofNat 18 (win + 4 * w)) bs ++
        opsRBytes (BitVec.ofNat 18 (win + 4 * w)) bs.length) s = .next t ∧
      bytesFrom t m (4 * w) bs.length = bs ∧
      (∀ a, 4 * w + bs.length ≤ a → a < 4 * (w + (bs.length + 3) / 4) → t.memRead m a = 0#8) ∧
      (∀ a, a < 4 * w ∨ 4 * (w + (bs.length + 3) / 4) ≤ a → t.memRead m a = s.memRead m a) ∧
      t.hostRBytes bs.length = some bs
end

