-- ==== Sys2Proof/Laws/State.lean ====
section
/-! SUPPORT. One lemma per field per shared update of the state, so that no proof unfolds a record update. -/
namespace Sys2Proof.Machine

variable (s : State)

/-! ### done (60 R244) -/

@[simp] theorem State.done_pending (r : Word) : (s.done r).pending = .idle := rfl
@[simp] theorem State.done_treeValid (r : Word) : (s.done r).treeValid = s.treeValid := rfl
@[simp] theorem State.done_codesValid (r : Word) : (s.done r).codesValid = s.codesValid := rfl
@[simp] theorem State.done_errFirst (r : Word) : (s.done r).errFirst = s.errFirst := rfl
@[simp] theorem State.done_errFirstOp (r : Word) : (s.done r).errFirstOp = s.errFirstOp := rfl
@[simp] theorem State.done_errLast (r : Word) : (s.done r).errLast = .noError := rfl
@[simp] theorem State.done_doneIe (r : Word) : (s.done r).doneIe = s.doneIe := rfl
@[simp] theorem State.done_errIe (r : Word) : (s.done r).errIe = s.errIe := rfl
@[simp] theorem State.done_irqDone (r : Word) : (s.done r).irqDone = true := rfl
@[simp] theorem State.done_result (r : Word) : (s.done r).result = r := rfl
@[simp] theorem State.done_freqTotal (r : Word) : (s.done r).freqTotal = s.freqTotal := rfl
@[simp] theorem State.done_dropCnt (r : Word) : (s.done r).dropCnt = s.dropCnt := rfl
@[simp] theorem State.done_distinct (r : Word) : (s.done r).distinct = s.distinct := rfl
@[simp] theorem State.done_root (r : Word) : (s.done r).root = s.root := rfl
@[simp] theorem State.done_nodeCnt (r : Word) : (s.done r).nodeCnt = s.nodeCnt := rfl
@[simp] theorem State.done_treeLen (r : Word) : (s.done r).treeLen = s.treeLen := rfl
@[simp] theorem State.done_cartLen (r : Word) : (s.done r).cartLen = s.cartLen := rfl
@[simp] theorem State.done_outLen (r : Word) : (s.done r).outLen = s.outLen := rfl
@[simp] theorem State.done_treeUsed (r : Word) : (s.done r).treeUsed = s.treeUsed := rfl
@[simp] theorem State.done_freq (r : Word) : (s.done r).freq = s.freq := rfl
@[simp] theorem State.done_nodes (r : Word) : (s.done r).nodes = s.nodes := rfl
@[simp] theorem State.done_code (r : Word) : (s.done r).code = s.code := rfl
@[simp] theorem State.done_heap (r : Word) : (s.done r).heap = s.heap := rfl
@[simp] theorem State.done_hsize (r : Word) : (s.done r).hsize = s.hsize := rfl
@[simp] theorem State.done_treeMem (r : Word) : (s.done r).treeMem = s.treeMem := rfl
@[simp] theorem State.done_cart (r : Word) : (s.done r).cart = s.cart := rfl
@[simp] theorem State.done_out (r : Word) : (s.done r).out = s.out := rfl
@[simp] theorem State.done_params (r : Word) : (s.done r).params = s.params := rfl
@[simp] theorem State.done_rstN (r : Word) : (s.done r).rstN = s.rstN := rfl
@[simp] theorem State.done_epoch (r : Word) : (s.done r).epoch = s.epoch := rfl
@[simp] theorem State.done_sched (r : Word) : (s.done r).sched = s.sched := rfl
@[simp] theorem State.done_host (r : Word) : (s.done r).host = s.host := rfl

/-! ### raise (60 R245) -/

@[simp] theorem State.raise_pending (e : ErrCode) (d : Word) : (s.raise e d).pending = .idle := rfl
@[simp] theorem State.raise_treeValid (e : ErrCode) (d : Word) : (s.raise e d).treeValid = s.treeValid := rfl
@[simp] theorem State.raise_codesValid (e : ErrCode) (d : Word) : (s.raise e d).codesValid = s.codesValid := rfl
@[simp] theorem State.raise_errFirst (e : ErrCode) (d : Word) : (s.raise e d).errFirst = (if s.errFirst = .noError then e else s.errFirst) := rfl
@[simp] theorem State.raise_errFirstOp (e : ErrCode) (d : Word) : (s.raise e d).errFirstOp = (if s.errFirst = .noError then s.pendingOp else s.errFirstOp) := rfl
@[simp] theorem State.raise_errLast (e : ErrCode) (d : Word) : (s.raise e d).errLast = e := rfl
@[simp] theorem State.raise_doneIe (e : ErrCode) (d : Word) : (s.raise e d).doneIe = s.doneIe := rfl
@[simp] theorem State.raise_errIe (e : ErrCode) (d : Word) : (s.raise e d).errIe = s.errIe := rfl
@[simp] theorem State.raise_irqDone (e : ErrCode) (d : Word) : (s.raise e d).irqDone = true := rfl
@[simp] theorem State.raise_result (e : ErrCode) (d : Word) : (s.raise e d).result = d := rfl
@[simp] theorem State.raise_freqTotal (e : ErrCode) (d : Word) : (s.raise e d).freqTotal = s.freqTotal := rfl
@[simp] theorem State.raise_dropCnt (e : ErrCode) (d : Word) : (s.raise e d).dropCnt = s.dropCnt := rfl
@[simp] theorem State.raise_distinct (e : ErrCode) (d : Word) : (s.raise e d).distinct = s.distinct := rfl
@[simp] theorem State.raise_root (e : ErrCode) (d : Word) : (s.raise e d).root = s.root := rfl
@[simp] theorem State.raise_nodeCnt (e : ErrCode) (d : Word) : (s.raise e d).nodeCnt = s.nodeCnt := rfl
@[simp] theorem State.raise_treeLen (e : ErrCode) (d : Word) : (s.raise e d).treeLen = s.treeLen := rfl
@[simp] theorem State.raise_cartLen (e : ErrCode) (d : Word) : (s.raise e d).cartLen = s.cartLen := rfl
@[simp] theorem State.raise_outLen (e : ErrCode) (d : Word) : (s.raise e d).outLen = s.outLen := rfl
@[simp] theorem State.raise_treeUsed (e : ErrCode) (d : Word) : (s.raise e d).treeUsed = s.treeUsed := rfl
@[simp] theorem State.raise_freq (e : ErrCode) (d : Word) : (s.raise e d).freq = s.freq := rfl
@[simp] theorem State.raise_nodes (e : ErrCode) (d : Word) : (s.raise e d).nodes = s.nodes := rfl
@[simp] theorem State.raise_code (e : ErrCode) (d : Word) : (s.raise e d).code = s.code := rfl
@[simp] theorem State.raise_heap (e : ErrCode) (d : Word) : (s.raise e d).heap = s.heap := rfl
@[simp] theorem State.raise_hsize (e : ErrCode) (d : Word) : (s.raise e d).hsize = s.hsize := rfl
@[simp] theorem State.raise_treeMem (e : ErrCode) (d : Word) : (s.raise e d).treeMem = s.treeMem := rfl
@[simp] theorem State.raise_cart (e : ErrCode) (d : Word) : (s.raise e d).cart = s.cart := rfl
@[simp] theorem State.raise_out (e : ErrCode) (d : Word) : (s.raise e d).out = s.out := rfl
@[simp] theorem State.raise_params (e : ErrCode) (d : Word) : (s.raise e d).params = s.params := rfl
@[simp] theorem State.raise_rstN (e : ErrCode) (d : Word) : (s.raise e d).rstN = s.rstN := rfl
@[simp] theorem State.raise_epoch (e : ErrCode) (d : Word) : (s.raise e d).epoch = s.epoch := rfl
@[simp] theorem State.raise_sched (e : ErrCode) (d : Word) : (s.raise e d).sched = s.sched := rfl
@[simp] theorem State.raise_host (e : ErrCode) (d : Word) : (s.raise e d).host = s.host := rfl

/-! ### recordBusyViolation (60 R249) -/

@[simp] theorem State.recordBusyViolation_pending : s.recordBusyViolation.pending = s.pending := rfl
@[simp] theorem State.recordBusyViolation_treeValid : s.recordBusyViolation.treeValid = s.treeValid := rfl
@[simp] theorem State.recordBusyViolation_codesValid : s.recordBusyViolation.codesValid = s.codesValid := rfl
@[simp] theorem State.recordBusyViolation_errFirst : s.recordBusyViolation.errFirst = (if s.errFirst = .noError then .busyViolation else s.errFirst) := rfl
@[simp] theorem State.recordBusyViolation_errFirstOp : s.recordBusyViolation.errFirstOp = (if s.errFirst = .noError then 0xFF#8 else s.errFirstOp) := rfl
@[simp] theorem State.recordBusyViolation_errLast : s.recordBusyViolation.errLast = s.errLast := rfl
@[simp] theorem State.recordBusyViolation_doneIe : s.recordBusyViolation.doneIe = s.doneIe := rfl
@[simp] theorem State.recordBusyViolation_errIe : s.recordBusyViolation.errIe = s.errIe := rfl
@[simp] theorem State.recordBusyViolation_irqDone : s.recordBusyViolation.irqDone = s.irqDone := rfl
@[simp] theorem State.recordBusyViolation_result : s.recordBusyViolation.result = s.result := rfl
@[simp] theorem State.recordBusyViolation_freqTotal : s.recordBusyViolation.freqTotal = s.freqTotal := rfl
@[simp] theorem State.recordBusyViolation_dropCnt : s.recordBusyViolation.dropCnt = s.dropCnt := rfl
@[simp] theorem State.recordBusyViolation_distinct : s.recordBusyViolation.distinct = s.distinct := rfl
@[simp] theorem State.recordBusyViolation_root : s.recordBusyViolation.root = s.root := rfl
@[simp] theorem State.recordBusyViolation_nodeCnt : s.recordBusyViolation.nodeCnt = s.nodeCnt := rfl
@[simp] theorem State.recordBusyViolation_treeLen : s.recordBusyViolation.treeLen = s.treeLen := rfl
@[simp] theorem State.recordBusyViolation_cartLen : s.recordBusyViolation.cartLen = s.cartLen := rfl
@[simp] theorem State.recordBusyViolation_outLen : s.recordBusyViolation.outLen = s.outLen := rfl
@[simp] theorem State.recordBusyViolation_treeUsed : s.recordBusyViolation.treeUsed = s.treeUsed := rfl
@[simp] theorem State.recordBusyViolation_freq : s.recordBusyViolation.freq = s.freq := rfl
@[simp] theorem State.recordBusyViolation_nodes : s.recordBusyViolation.nodes = s.nodes := rfl
@[simp] theorem State.recordBusyViolation_code : s.recordBusyViolation.code = s.code := rfl
@[simp] theorem State.recordBusyViolation_heap : s.recordBusyViolation.heap = s.heap := rfl
@[simp] theorem State.recordBusyViolation_hsize : s.recordBusyViolation.hsize = s.hsize := rfl
@[simp] theorem State.recordBusyViolation_treeMem : s.recordBusyViolation.treeMem = s.treeMem := rfl
@[simp] theorem State.recordBusyViolation_cart : s.recordBusyViolation.cart = s.cart := rfl
@[simp] theorem State.recordBusyViolation_out : s.recordBusyViolation.out = s.out := rfl
@[simp] theorem State.recordBusyViolation_params : s.recordBusyViolation.params = s.params := rfl
@[simp] theorem State.recordBusyViolation_rstN : s.recordBusyViolation.rstN = s.rstN := rfl
@[simp] theorem State.recordBusyViolation_epoch : s.recordBusyViolation.epoch = s.epoch := rfl
@[simp] theorem State.recordBusyViolation_sched : s.recordBusyViolation.sched = s.sched := rfl
@[simp] theorem State.recordBusyViolation_host : s.recordBusyViolation.host = s.host := rfl

/-! ### setMem and memWrite (00 R11) -/

@[simp] theorem State.setMem_pending (m : ByteMem) (x : Memory) : (s.setMem m x).pending = s.pending := by cases m <;> rfl
@[simp] theorem State.setMem_treeValid (m : ByteMem) (x : Memory) : (s.setMem m x).treeValid = s.treeValid := by cases m <;> rfl
@[simp] theorem State.setMem_codesValid (m : ByteMem) (x : Memory) : (s.setMem m x).codesValid = s.codesValid := by cases m <;> rfl
@[simp] theorem State.setMem_errFirst (m : ByteMem) (x : Memory) : (s.setMem m x).errFirst = s.errFirst := by cases m <;> rfl
@[simp] theorem State.setMem_errFirstOp (m : ByteMem) (x : Memory) : (s.setMem m x).errFirstOp = s.errFirstOp := by cases m <;> rfl
@[simp] theorem State.setMem_errLast (m : ByteMem) (x : Memory) : (s.setMem m x).errLast = s.errLast := by cases m <;> rfl
@[simp] theorem State.setMem_doneIe (m : ByteMem) (x : Memory) : (s.setMem m x).doneIe = s.doneIe := by cases m <;> rfl
@[simp] theorem State.setMem_errIe (m : ByteMem) (x : Memory) : (s.setMem m x).errIe = s.errIe := by cases m <;> rfl
@[simp] theorem State.setMem_irqDone (m : ByteMem) (x : Memory) : (s.setMem m x).irqDone = s.irqDone := by cases m <;> rfl
@[simp] theorem State.setMem_result (m : ByteMem) (x : Memory) : (s.setMem m x).result = s.result := by cases m <;> rfl
@[simp] theorem State.setMem_freqTotal (m : ByteMem) (x : Memory) : (s.setMem m x).freqTotal = s.freqTotal := by cases m <;> rfl
@[simp] theorem State.setMem_dropCnt (m : ByteMem) (x : Memory) : (s.setMem m x).dropCnt = s.dropCnt := by cases m <;> rfl
@[simp] theorem State.setMem_distinct (m : ByteMem) (x : Memory) : (s.setMem m x).distinct = s.distinct := by cases m <;> rfl
@[simp] theorem State.setMem_root (m : ByteMem) (x : Memory) : (s.setMem m x).root = s.root := by cases m <;> rfl
@[simp] theorem State.setMem_nodeCnt (m : ByteMem) (x : Memory) : (s.setMem m x).nodeCnt = s.nodeCnt := by cases m <;> rfl
@[simp] theorem State.setMem_treeLen (m : ByteMem) (x : Memory) : (s.setMem m x).treeLen = s.treeLen := by cases m <;> rfl
@[simp] theorem State.setMem_cartLen (m : ByteMem) (x : Memory) : (s.setMem m x).cartLen = s.cartLen := by cases m <;> rfl
@[simp] theorem State.setMem_outLen (m : ByteMem) (x : Memory) : (s.setMem m x).outLen = s.outLen := by cases m <;> rfl
@[simp] theorem State.setMem_treeUsed (m : ByteMem) (x : Memory) : (s.setMem m x).treeUsed = s.treeUsed := by cases m <;> rfl
@[simp] theorem State.setMem_freq (m : ByteMem) (x : Memory) : (s.setMem m x).freq = s.freq := by cases m <;> rfl
@[simp] theorem State.setMem_nodes (m : ByteMem) (x : Memory) : (s.setMem m x).nodes = s.nodes := by cases m <;> rfl
@[simp] theorem State.setMem_code (m : ByteMem) (x : Memory) : (s.setMem m x).code = s.code := by cases m <;> rfl
@[simp] theorem State.setMem_heap (m : ByteMem) (x : Memory) : (s.setMem m x).heap = s.heap := by cases m <;> rfl
@[simp] theorem State.setMem_hsize (m : ByteMem) (x : Memory) : (s.setMem m x).hsize = s.hsize := by cases m <;> rfl
@[simp] theorem State.setMem_params (m : ByteMem) (x : Memory) : (s.setMem m x).params = s.params := by cases m <;> rfl
@[simp] theorem State.setMem_rstN (m : ByteMem) (x : Memory) : (s.setMem m x).rstN = s.rstN := by cases m <;> rfl
@[simp] theorem State.setMem_epoch (m : ByteMem) (x : Memory) : (s.setMem m x).epoch = s.epoch := by cases m <;> rfl
@[simp] theorem State.setMem_sched (m : ByteMem) (x : Memory) : (s.setMem m x).sched = s.sched := by cases m <;> rfl
@[simp] theorem State.setMem_host (m : ByteMem) (x : Memory) : (s.setMem m x).host = s.host := by cases m <;> rfl

@[simp] theorem State.memWrite_pending (m : ByteMem) (a : Nat) (v : Byte) : (s.memWrite m a v).pending = s.pending := s.setMem_pending m _
@[simp] theorem State.memWrite_treeValid (m : ByteMem) (a : Nat) (v : Byte) : (s.memWrite m a v).treeValid = s.treeValid := s.setMem_treeValid m _
@[simp] theorem State.memWrite_codesValid (m : ByteMem) (a : Nat) (v : Byte) : (s.memWrite m a v).codesValid = s.codesValid := s.setMem_codesValid m _
@[simp] theorem State.memWrite_errFirst (m : ByteMem) (a : Nat) (v : Byte) : (s.memWrite m a v).errFirst = s.errFirst := s.setMem_errFirst m _
@[simp] theorem State.memWrite_errFirstOp (m : ByteMem) (a : Nat) (v : Byte) : (s.memWrite m a v).errFirstOp = s.errFirstOp := s.setMem_errFirstOp m _
@[simp] theorem State.memWrite_errLast (m : ByteMem) (a : Nat) (v : Byte) : (s.memWrite m a v).errLast = s.errLast := s.setMem_errLast m _
@[simp] theorem State.memWrite_doneIe (m : ByteMem) (a : Nat) (v : Byte) : (s.memWrite m a v).doneIe = s.doneIe := s.setMem_doneIe m _
@[simp] theorem State.memWrite_errIe (m : ByteMem) (a : Nat) (v : Byte) : (s.memWrite m a v).errIe = s.errIe := s.setMem_errIe m _
@[simp] theorem State.memWrite_irqDone (m : ByteMem) (a : Nat) (v : Byte) : (s.memWrite m a v).irqDone = s.irqDone := s.setMem_irqDone m _
@[simp] theorem State.memWrite_result (m : ByteMem) (a : Nat) (v : Byte) : (s.memWrite m a v).result = s.result := s.setMem_result m _
@[simp] theorem State.memWrite_freqTotal (m : ByteMem) (a : Nat) (v : Byte) : (s.memWrite m a v).freqTotal = s.freqTotal := s.setMem_freqTotal m _
@[simp] theorem State.memWrite_dropCnt (m : ByteMem) (a : Nat) (v : Byte) : (s.memWrite m a v).dropCnt = s.dropCnt := s.setMem_dropCnt m _
@[simp] theorem State.memWrite_distinct (m : ByteMem) (a : Nat) (v : Byte) : (s.memWrite m a v).distinct = s.distinct := s.setMem_distinct m _
@[simp] theorem State.memWrite_root (m : ByteMem) (a : Nat) (v : Byte) : (s.memWrite m a v).root = s.root := s.setMem_root m _
@[simp] theorem State.memWrite_nodeCnt (m : ByteMem) (a : Nat) (v : Byte) : (s.memWrite m a v).nodeCnt = s.nodeCnt := s.setMem_nodeCnt m _
@[simp] theorem State.memWrite_treeLen (m : ByteMem) (a : Nat) (v : Byte) : (s.memWrite m a v).treeLen = s.treeLen := s.setMem_treeLen m _
@[simp] theorem State.memWrite_cartLen (m : ByteMem) (a : Nat) (v : Byte) : (s.memWrite m a v).cartLen = s.cartLen := s.setMem_cartLen m _
@[simp] theorem State.memWrite_outLen (m : ByteMem) (a : Nat) (v : Byte) : (s.memWrite m a v).outLen = s.outLen := s.setMem_outLen m _
@[simp] theorem State.memWrite_treeUsed (m : ByteMem) (a : Nat) (v : Byte) : (s.memWrite m a v).treeUsed = s.treeUsed := s.setMem_treeUsed m _
@[simp] theorem State.memWrite_freq (m : ByteMem) (a : Nat) (v : Byte) : (s.memWrite m a v).freq = s.freq := s.setMem_freq m _
@[simp] theorem State.memWrite_nodes (m : ByteMem) (a : Nat) (v : Byte) : (s.memWrite m a v).nodes = s.nodes := s.setMem_nodes m _
@[simp] theorem State.memWrite_code (m : ByteMem) (a : Nat) (v : Byte) : (s.memWrite m a v).code = s.code := s.setMem_code m _
@[simp] theorem State.memWrite_heap (m : ByteMem) (a : Nat) (v : Byte) : (s.memWrite m a v).heap = s.heap := s.setMem_heap m _
@[simp] theorem State.memWrite_hsize (m : ByteMem) (a : Nat) (v : Byte) : (s.memWrite m a v).hsize = s.hsize := s.setMem_hsize m _
@[simp] theorem State.memWrite_params (m : ByteMem) (a : Nat) (v : Byte) : (s.memWrite m a v).params = s.params := s.setMem_params m _
@[simp] theorem State.memWrite_rstN (m : ByteMem) (a : Nat) (v : Byte) : (s.memWrite m a v).rstN = s.rstN := s.setMem_rstN m _
@[simp] theorem State.memWrite_epoch (m : ByteMem) (a : Nat) (v : Byte) : (s.memWrite m a v).epoch = s.epoch := s.setMem_epoch m _
@[simp] theorem State.memWrite_sched (m : ByteMem) (a : Nat) (v : Byte) : (s.memWrite m a v).sched = s.sched := s.setMem_sched m _
@[simp] theorem State.memWrite_host (m : ByteMem) (a : Nat) (v : Byte) : (s.memWrite m a v).host = s.host := s.setMem_host m _

/-! ### setbit, memWrites and setHdr (40 R140, R141) -/

@[simp] theorem State.setbit_pending (i : Nat) (b : Bool) : (s.setbit i b).pending = s.pending := s.memWrite_pending _ _ _
@[simp] theorem State.setbit_treeValid (i : Nat) (b : Bool) : (s.setbit i b).treeValid = s.treeValid := s.memWrite_treeValid _ _ _
@[simp] theorem State.setbit_codesValid (i : Nat) (b : Bool) : (s.setbit i b).codesValid = s.codesValid := s.memWrite_codesValid _ _ _
@[simp] theorem State.setbit_errFirst (i : Nat) (b : Bool) : (s.setbit i b).errFirst = s.errFirst := s.memWrite_errFirst _ _ _
@[simp] theorem State.setbit_errFirstOp (i : Nat) (b : Bool) : (s.setbit i b).errFirstOp = s.errFirstOp := s.memWrite_errFirstOp _ _ _
@[simp] theorem State.setbit_errLast (i : Nat) (b : Bool) : (s.setbit i b).errLast = s.errLast := s.memWrite_errLast _ _ _
@[simp] theorem State.setbit_doneIe (i : Nat) (b : Bool) : (s.setbit i b).doneIe = s.doneIe := s.memWrite_doneIe _ _ _
@[simp] theorem State.setbit_errIe (i : Nat) (b : Bool) : (s.setbit i b).errIe = s.errIe := s.memWrite_errIe _ _ _
@[simp] theorem State.setbit_irqDone (i : Nat) (b : Bool) : (s.setbit i b).irqDone = s.irqDone := s.memWrite_irqDone _ _ _
@[simp] theorem State.setbit_result (i : Nat) (b : Bool) : (s.setbit i b).result = s.result := s.memWrite_result _ _ _
@[simp] theorem State.setbit_freqTotal (i : Nat) (b : Bool) : (s.setbit i b).freqTotal = s.freqTotal := s.memWrite_freqTotal _ _ _
@[simp] theorem State.setbit_dropCnt (i : Nat) (b : Bool) : (s.setbit i b).dropCnt = s.dropCnt := s.memWrite_dropCnt _ _ _
@[simp] theorem State.setbit_distinct (i : Nat) (b : Bool) : (s.setbit i b).distinct = s.distinct := s.memWrite_distinct _ _ _
@[simp] theorem State.setbit_root (i : Nat) (b : Bool) : (s.setbit i b).root = s.root := s.memWrite_root _ _ _
@[simp] theorem State.setbit_nodeCnt (i : Nat) (b : Bool) : (s.setbit i b).nodeCnt = s.nodeCnt := s.memWrite_nodeCnt _ _ _
@[simp] theorem State.setbit_treeLen (i : Nat) (b : Bool) : (s.setbit i b).treeLen = s.treeLen := s.memWrite_treeLen _ _ _
@[simp] theorem State.setbit_cartLen (i : Nat) (b : Bool) : (s.setbit i b).cartLen = s.cartLen := s.memWrite_cartLen _ _ _
@[simp] theorem State.setbit_outLen (i : Nat) (b : Bool) : (s.setbit i b).outLen = s.outLen := s.memWrite_outLen _ _ _
@[simp] theorem State.setbit_treeUsed (i : Nat) (b : Bool) : (s.setbit i b).treeUsed = s.treeUsed := s.memWrite_treeUsed _ _ _
@[simp] theorem State.setbit_freq (i : Nat) (b : Bool) : (s.setbit i b).freq = s.freq := s.memWrite_freq _ _ _
@[simp] theorem State.setbit_nodes (i : Nat) (b : Bool) : (s.setbit i b).nodes = s.nodes := s.memWrite_nodes _ _ _
@[simp] theorem State.setbit_code (i : Nat) (b : Bool) : (s.setbit i b).code = s.code := s.memWrite_code _ _ _
@[simp] theorem State.setbit_heap (i : Nat) (b : Bool) : (s.setbit i b).heap = s.heap := s.memWrite_heap _ _ _
@[simp] theorem State.setbit_hsize (i : Nat) (b : Bool) : (s.setbit i b).hsize = s.hsize := s.memWrite_hsize _ _ _
@[simp] theorem State.setbit_treeMem (i : Nat) (b : Bool) : (s.setbit i b).treeMem = s.treeMem := rfl
@[simp] theorem State.setbit_out (i : Nat) (b : Bool) : (s.setbit i b).out = s.out := rfl
@[simp] theorem State.setbit_params (i : Nat) (b : Bool) : (s.setbit i b).params = s.params := s.memWrite_params _ _ _
@[simp] theorem State.setbit_rstN (i : Nat) (b : Bool) : (s.setbit i b).rstN = s.rstN := s.memWrite_rstN _ _ _
@[simp] theorem State.setbit_epoch (i : Nat) (b : Bool) : (s.setbit i b).epoch = s.epoch := s.memWrite_epoch _ _ _
@[simp] theorem State.setbit_sched (i : Nat) (b : Bool) : (s.setbit i b).sched = s.sched := s.memWrite_sched _ _ _
@[simp] theorem State.setbit_host (i : Nat) (b : Bool) : (s.setbit i b).host = s.host := s.memWrite_host _ _ _

@[simp] theorem State.memWrites_pending (m : ByteMem) (a : Nat) (bs : List Byte) : (s.memWrites m a bs).pending = s.pending := s.setMem_pending m _
@[simp] theorem State.setHdr_pending (n : Word) : (s.setHdr n).pending = s.pending := s.setMem_pending _ _
@[simp] theorem State.memWrites_treeValid (m : ByteMem) (a : Nat) (bs : List Byte) : (s.memWrites m a bs).treeValid = s.treeValid := s.setMem_treeValid m _
@[simp] theorem State.setHdr_treeValid (n : Word) : (s.setHdr n).treeValid = s.treeValid := s.setMem_treeValid _ _
@[simp] theorem State.memWrites_codesValid (m : ByteMem) (a : Nat) (bs : List Byte) : (s.memWrites m a bs).codesValid = s.codesValid := s.setMem_codesValid m _
@[simp] theorem State.setHdr_codesValid (n : Word) : (s.setHdr n).codesValid = s.codesValid := s.setMem_codesValid _ _
@[simp] theorem State.memWrites_errFirst (m : ByteMem) (a : Nat) (bs : List Byte) : (s.memWrites m a bs).errFirst = s.errFirst := s.setMem_errFirst m _
@[simp] theorem State.setHdr_errFirst (n : Word) : (s.setHdr n).errFirst = s.errFirst := s.setMem_errFirst _ _
@[simp] theorem State.memWrites_errFirstOp (m : ByteMem) (a : Nat) (bs : List Byte) : (s.memWrites m a bs).errFirstOp = s.errFirstOp := s.setMem_errFirstOp m _
@[simp] theorem State.setHdr_errFirstOp (n : Word) : (s.setHdr n).errFirstOp = s.errFirstOp := s.setMem_errFirstOp _ _
@[simp] theorem State.memWrites_errLast (m : ByteMem) (a : Nat) (bs : List Byte) : (s.memWrites m a bs).errLast = s.errLast := s.setMem_errLast m _
@[simp] theorem State.setHdr_errLast (n : Word) : (s.setHdr n).errLast = s.errLast := s.setMem_errLast _ _
@[simp] theorem State.memWrites_doneIe (m : ByteMem) (a : Nat) (bs : List Byte) : (s.memWrites m a bs).doneIe = s.doneIe := s.setMem_doneIe m _
@[simp] theorem State.setHdr_doneIe (n : Word) : (s.setHdr n).doneIe = s.doneIe := s.setMem_doneIe _ _
@[simp] theorem State.memWrites_errIe (m : ByteMem) (a : Nat) (bs : List Byte) : (s.memWrites m a bs).errIe = s.errIe := s.setMem_errIe m _
@[simp] theorem State.setHdr_errIe (n : Word) : (s.setHdr n).errIe = s.errIe := s.setMem_errIe _ _
@[simp] theorem State.memWrites_irqDone (m : ByteMem) (a : Nat) (bs : List Byte) : (s.memWrites m a bs).irqDone = s.irqDone := s.setMem_irqDone m _
@[simp] theorem State.setHdr_irqDone (n : Word) : (s.setHdr n).irqDone = s.irqDone := s.setMem_irqDone _ _
@[simp] theorem State.memWrites_result (m : ByteMem) (a : Nat) (bs : List Byte) : (s.memWrites m a bs).result = s.result := s.setMem_result m _
@[simp] theorem State.setHdr_result (n : Word) : (s.setHdr n).result = s.result := s.setMem_result _ _
@[simp] theorem State.memWrites_freqTotal (m : ByteMem) (a : Nat) (bs : List Byte) : (s.memWrites m a bs).freqTotal = s.freqTotal := s.setMem_freqTotal m _
@[simp] theorem State.setHdr_freqTotal (n : Word) : (s.setHdr n).freqTotal = s.freqTotal := s.setMem_freqTotal _ _
@[simp] theorem State.memWrites_dropCnt (m : ByteMem) (a : Nat) (bs : List Byte) : (s.memWrites m a bs).dropCnt = s.dropCnt := s.setMem_dropCnt m _
@[simp] theorem State.setHdr_dropCnt (n : Word) : (s.setHdr n).dropCnt = s.dropCnt := s.setMem_dropCnt _ _
@[simp] theorem State.memWrites_distinct (m : ByteMem) (a : Nat) (bs : List Byte) : (s.memWrites m a bs).distinct = s.distinct := s.setMem_distinct m _
@[simp] theorem State.setHdr_distinct (n : Word) : (s.setHdr n).distinct = s.distinct := s.setMem_distinct _ _
@[simp] theorem State.memWrites_root (m : ByteMem) (a : Nat) (bs : List Byte) : (s.memWrites m a bs).root = s.root := s.setMem_root m _
@[simp] theorem State.setHdr_root (n : Word) : (s.setHdr n).root = s.root := s.setMem_root _ _
@[simp] theorem State.memWrites_nodeCnt (m : ByteMem) (a : Nat) (bs : List Byte) : (s.memWrites m a bs).nodeCnt = s.nodeCnt := s.setMem_nodeCnt m _
@[simp] theorem State.setHdr_nodeCnt (n : Word) : (s.setHdr n).nodeCnt = s.nodeCnt := s.setMem_nodeCnt _ _
@[simp] theorem State.memWrites_treeLen (m : ByteMem) (a : Nat) (bs : List Byte) : (s.memWrites m a bs).treeLen = s.treeLen := s.setMem_treeLen m _
@[simp] theorem State.setHdr_treeLen (n : Word) : (s.setHdr n).treeLen = s.treeLen := s.setMem_treeLen _ _
@[simp] theorem State.memWrites_cartLen (m : ByteMem) (a : Nat) (bs : List Byte) : (s.memWrites m a bs).cartLen = s.cartLen := s.setMem_cartLen m _
@[simp] theorem State.setHdr_cartLen (n : Word) : (s.setHdr n).cartLen = s.cartLen := s.setMem_cartLen _ _
@[simp] theorem State.memWrites_outLen (m : ByteMem) (a : Nat) (bs : List Byte) : (s.memWrites m a bs).outLen = s.outLen := s.setMem_outLen m _
@[simp] theorem State.setHdr_outLen (n : Word) : (s.setHdr n).outLen = s.outLen := s.setMem_outLen _ _
@[simp] theorem State.memWrites_treeUsed (m : ByteMem) (a : Nat) (bs : List Byte) : (s.memWrites m a bs).treeUsed = s.treeUsed := s.setMem_treeUsed m _
@[simp] theorem State.setHdr_treeUsed (n : Word) : (s.setHdr n).treeUsed = s.treeUsed := s.setMem_treeUsed _ _
@[simp] theorem State.memWrites_freq (m : ByteMem) (a : Nat) (bs : List Byte) : (s.memWrites m a bs).freq = s.freq := s.setMem_freq m _
@[simp] theorem State.setHdr_freq (n : Word) : (s.setHdr n).freq = s.freq := s.setMem_freq _ _
@[simp] theorem State.memWrites_nodes (m : ByteMem) (a : Nat) (bs : List Byte) : (s.memWrites m a bs).nodes = s.nodes := s.setMem_nodes m _
@[simp] theorem State.setHdr_nodes (n : Word) : (s.setHdr n).nodes = s.nodes := s.setMem_nodes _ _
@[simp] theorem State.memWrites_code (m : ByteMem) (a : Nat) (bs : List Byte) : (s.memWrites m a bs).code = s.code := s.setMem_code m _
@[simp] theorem State.setHdr_code (n : Word) : (s.setHdr n).code = s.code := s.setMem_code _ _
@[simp] theorem State.memWrites_heap (m : ByteMem) (a : Nat) (bs : List Byte) : (s.memWrites m a bs).heap = s.heap := s.setMem_heap m _
@[simp] theorem State.setHdr_heap (n : Word) : (s.setHdr n).heap = s.heap := s.setMem_heap _ _
@[simp] theorem State.memWrites_hsize (m : ByteMem) (a : Nat) (bs : List Byte) : (s.memWrites m a bs).hsize = s.hsize := s.setMem_hsize m _
@[simp] theorem State.setHdr_hsize (n : Word) : (s.setHdr n).hsize = s.hsize := s.setMem_hsize _ _
@[simp] theorem State.setHdr_treeMem (n : Word) : (s.setHdr n).treeMem = s.treeMem := rfl
@[simp] theorem State.setHdr_out (n : Word) : (s.setHdr n).out = s.out := rfl
@[simp] theorem State.memWrites_params (m : ByteMem) (a : Nat) (bs : List Byte) : (s.memWrites m a bs).params = s.params := s.setMem_params m _
@[simp] theorem State.setHdr_params (n : Word) : (s.setHdr n).params = s.params := s.setMem_params _ _
@[simp] theorem State.memWrites_rstN (m : ByteMem) (a : Nat) (bs : List Byte) : (s.memWrites m a bs).rstN = s.rstN := s.setMem_rstN m _
@[simp] theorem State.setHdr_rstN (n : Word) : (s.setHdr n).rstN = s.rstN := s.setMem_rstN _ _
@[simp] theorem State.memWrites_epoch (m : ByteMem) (a : Nat) (bs : List Byte) : (s.memWrites m a bs).epoch = s.epoch := s.setMem_epoch m _
@[simp] theorem State.setHdr_epoch (n : Word) : (s.setHdr n).epoch = s.epoch := s.setMem_epoch _ _
@[simp] theorem State.memWrites_sched (m : ByteMem) (a : Nat) (bs : List Byte) : (s.memWrites m a bs).sched = s.sched := s.setMem_sched m _
@[simp] theorem State.setHdr_sched (n : Word) : (s.setHdr n).sched = s.sched := s.setMem_sched _ _
@[simp] theorem State.memWrites_host (m : ByteMem) (a : Nat) (bs : List Byte) : (s.memWrites m a bs).host = s.host := s.setMem_host m _
@[simp] theorem State.setHdr_host (n : Word) : (s.setHdr n).host = s.host := s.setMem_host _ _

/-! ### hostAdvance, hostResp and hostRecord (30 R124, R125) -/

@[simp] theorem State.hostAdvance_pending : s.hostAdvance.pending = s.pending := rfl
@[simp] theorem State.hostAdvance_treeValid : s.hostAdvance.treeValid = s.treeValid := rfl
@[simp] theorem State.hostAdvance_codesValid : s.hostAdvance.codesValid = s.codesValid := rfl
@[simp] theorem State.hostAdvance_errFirst : s.hostAdvance.errFirst = s.errFirst := rfl
@[simp] theorem State.hostAdvance_errFirstOp : s.hostAdvance.errFirstOp = s.errFirstOp := rfl
@[simp] theorem State.hostAdvance_errLast : s.hostAdvance.errLast = s.errLast := rfl
@[simp] theorem State.hostAdvance_doneIe : s.hostAdvance.doneIe = s.doneIe := rfl
@[simp] theorem State.hostAdvance_errIe : s.hostAdvance.errIe = s.errIe := rfl
@[simp] theorem State.hostAdvance_irqDone : s.hostAdvance.irqDone = s.irqDone := rfl
@[simp] theorem State.hostAdvance_result : s.hostAdvance.result = s.result := rfl
@[simp] theorem State.hostAdvance_freqTotal : s.hostAdvance.freqTotal = s.freqTotal := rfl
@[simp] theorem State.hostAdvance_dropCnt : s.hostAdvance.dropCnt = s.dropCnt := rfl
@[simp] theorem State.hostAdvance_distinct : s.hostAdvance.distinct = s.distinct := rfl
@[simp] theorem State.hostAdvance_root : s.hostAdvance.root = s.root := rfl
@[simp] theorem State.hostAdvance_nodeCnt : s.hostAdvance.nodeCnt = s.nodeCnt := rfl
@[simp] theorem State.hostAdvance_treeLen : s.hostAdvance.treeLen = s.treeLen := rfl
@[simp] theorem State.hostAdvance_cartLen : s.hostAdvance.cartLen = s.cartLen := rfl
@[simp] theorem State.hostAdvance_outLen : s.hostAdvance.outLen = s.outLen := rfl
@[simp] theorem State.hostAdvance_treeUsed : s.hostAdvance.treeUsed = s.treeUsed := rfl
@[simp] theorem State.hostAdvance_freq : s.hostAdvance.freq = s.freq := rfl
@[simp] theorem State.hostAdvance_nodes : s.hostAdvance.nodes = s.nodes := rfl
@[simp] theorem State.hostAdvance_code : s.hostAdvance.code = s.code := rfl
@[simp] theorem State.hostAdvance_heap : s.hostAdvance.heap = s.heap := rfl
@[simp] theorem State.hostAdvance_hsize : s.hostAdvance.hsize = s.hsize := rfl
@[simp] theorem State.hostAdvance_treeMem : s.hostAdvance.treeMem = s.treeMem := rfl
@[simp] theorem State.hostAdvance_cart : s.hostAdvance.cart = s.cart := rfl
@[simp] theorem State.hostAdvance_out : s.hostAdvance.out = s.out := rfl
@[simp] theorem State.hostAdvance_params : s.hostAdvance.params = s.params := rfl
@[simp] theorem State.hostAdvance_rstN : s.hostAdvance.rstN = s.rstN := rfl
@[simp] theorem State.hostAdvance_epoch : s.hostAdvance.epoch = s.epoch := rfl
@[simp] theorem State.hostAdvance_sched : s.hostAdvance.sched = s.sched := rfl

@[simp] theorem State.hostResp_pending (r : BusResp) : (s.hostResp r).pending = s.pending := rfl
@[simp] theorem State.hostResp_treeValid (r : BusResp) : (s.hostResp r).treeValid = s.treeValid := rfl
@[simp] theorem State.hostResp_codesValid (r : BusResp) : (s.hostResp r).codesValid = s.codesValid := rfl
@[simp] theorem State.hostResp_errFirst (r : BusResp) : (s.hostResp r).errFirst = s.errFirst := rfl
@[simp] theorem State.hostResp_errFirstOp (r : BusResp) : (s.hostResp r).errFirstOp = s.errFirstOp := rfl
@[simp] theorem State.hostResp_errLast (r : BusResp) : (s.hostResp r).errLast = s.errLast := rfl
@[simp] theorem State.hostResp_doneIe (r : BusResp) : (s.hostResp r).doneIe = s.doneIe := rfl
@[simp] theorem State.hostResp_errIe (r : BusResp) : (s.hostResp r).errIe = s.errIe := rfl
@[simp] theorem State.hostResp_irqDone (r : BusResp) : (s.hostResp r).irqDone = s.irqDone := rfl
@[simp] theorem State.hostResp_result (r : BusResp) : (s.hostResp r).result = s.result := rfl
@[simp] theorem State.hostResp_freqTotal (r : BusResp) : (s.hostResp r).freqTotal = s.freqTotal := rfl
@[simp] theorem State.hostResp_dropCnt (r : BusResp) : (s.hostResp r).dropCnt = s.dropCnt := rfl
@[simp] theorem State.hostResp_distinct (r : BusResp) : (s.hostResp r).distinct = s.distinct := rfl
@[simp] theorem State.hostResp_root (r : BusResp) : (s.hostResp r).root = s.root := rfl
@[simp] theorem State.hostResp_nodeCnt (r : BusResp) : (s.hostResp r).nodeCnt = s.nodeCnt := rfl
@[simp] theorem State.hostResp_treeLen (r : BusResp) : (s.hostResp r).treeLen = s.treeLen := rfl
@[simp] theorem State.hostResp_cartLen (r : BusResp) : (s.hostResp r).cartLen = s.cartLen := rfl
@[simp] theorem State.hostResp_outLen (r : BusResp) : (s.hostResp r).outLen = s.outLen := rfl
@[simp] theorem State.hostResp_treeUsed (r : BusResp) : (s.hostResp r).treeUsed = s.treeUsed := rfl
@[simp] theorem State.hostResp_freq (r : BusResp) : (s.hostResp r).freq = s.freq := rfl
@[simp] theorem State.hostResp_nodes (r : BusResp) : (s.hostResp r).nodes = s.nodes := rfl
@[simp] theorem State.hostResp_code (r : BusResp) : (s.hostResp r).code = s.code := rfl
@[simp] theorem State.hostResp_heap (r : BusResp) : (s.hostResp r).heap = s.heap := rfl
@[simp] theorem State.hostResp_hsize (r : BusResp) : (s.hostResp r).hsize = s.hsize := rfl
@[simp] theorem State.hostResp_treeMem (r : BusResp) : (s.hostResp r).treeMem = s.treeMem := rfl
@[simp] theorem State.hostResp_cart (r : BusResp) : (s.hostResp r).cart = s.cart := rfl
@[simp] theorem State.hostResp_out (r : BusResp) : (s.hostResp r).out = s.out := rfl
@[simp] theorem State.hostResp_params (r : BusResp) : (s.hostResp r).params = s.params := rfl
@[simp] theorem State.hostResp_rstN (r : BusResp) : (s.hostResp r).rstN = s.rstN := rfl
@[simp] theorem State.hostResp_epoch (r : BusResp) : (s.hostResp r).epoch = s.epoch := rfl
@[simp] theorem State.hostResp_sched (r : BusResp) : (s.hostResp r).sched = s.sched := rfl

@[simp] theorem State.hostRecord_pending (r : BusResp) : (s.hostRecord r).pending = s.pending := rfl
@[simp] theorem State.hostRecord_treeValid (r : BusResp) : (s.hostRecord r).treeValid = s.treeValid := rfl
@[simp] theorem State.hostRecord_codesValid (r : BusResp) : (s.hostRecord r).codesValid = s.codesValid := rfl
@[simp] theorem State.hostRecord_errFirst (r : BusResp) : (s.hostRecord r).errFirst = s.errFirst := rfl
@[simp] theorem State.hostRecord_errFirstOp (r : BusResp) : (s.hostRecord r).errFirstOp = s.errFirstOp := rfl
@[simp] theorem State.hostRecord_errLast (r : BusResp) : (s.hostRecord r).errLast = s.errLast := rfl
@[simp] theorem State.hostRecord_doneIe (r : BusResp) : (s.hostRecord r).doneIe = s.doneIe := rfl
@[simp] theorem State.hostRecord_errIe (r : BusResp) : (s.hostRecord r).errIe = s.errIe := rfl
@[simp] theorem State.hostRecord_irqDone (r : BusResp) : (s.hostRecord r).irqDone = s.irqDone := rfl
@[simp] theorem State.hostRecord_result (r : BusResp) : (s.hostRecord r).result = s.result := rfl
@[simp] theorem State.hostRecord_freqTotal (r : BusResp) : (s.hostRecord r).freqTotal = s.freqTotal := rfl
@[simp] theorem State.hostRecord_dropCnt (r : BusResp) : (s.hostRecord r).dropCnt = s.dropCnt := rfl
@[simp] theorem State.hostRecord_distinct (r : BusResp) : (s.hostRecord r).distinct = s.distinct := rfl
@[simp] theorem State.hostRecord_root (r : BusResp) : (s.hostRecord r).root = s.root := rfl
@[simp] theorem State.hostRecord_nodeCnt (r : BusResp) : (s.hostRecord r).nodeCnt = s.nodeCnt := rfl
@[simp] theorem State.hostRecord_treeLen (r : BusResp) : (s.hostRecord r).treeLen = s.treeLen := rfl
@[simp] theorem State.hostRecord_cartLen (r : BusResp) : (s.hostRecord r).cartLen = s.cartLen := rfl
@[simp] theorem State.hostRecord_outLen (r : BusResp) : (s.hostRecord r).outLen = s.outLen := rfl
@[simp] theorem State.hostRecord_treeUsed (r : BusResp) : (s.hostRecord r).treeUsed = s.treeUsed := rfl
@[simp] theorem State.hostRecord_freq (r : BusResp) : (s.hostRecord r).freq = s.freq := rfl
@[simp] theorem State.hostRecord_nodes (r : BusResp) : (s.hostRecord r).nodes = s.nodes := rfl
@[simp] theorem State.hostRecord_code (r : BusResp) : (s.hostRecord r).code = s.code := rfl
@[simp] theorem State.hostRecord_heap (r : BusResp) : (s.hostRecord r).heap = s.heap := rfl
@[simp] theorem State.hostRecord_hsize (r : BusResp) : (s.hostRecord r).hsize = s.hsize := rfl
@[simp] theorem State.hostRecord_treeMem (r : BusResp) : (s.hostRecord r).treeMem = s.treeMem := rfl
@[simp] theorem State.hostRecord_cart (r : BusResp) : (s.hostRecord r).cart = s.cart := rfl
@[simp] theorem State.hostRecord_out (r : BusResp) : (s.hostRecord r).out = s.out := rfl
@[simp] theorem State.hostRecord_params (r : BusResp) : (s.hostRecord r).params = s.params := rfl
@[simp] theorem State.hostRecord_rstN (r : BusResp) : (s.hostRecord r).rstN = s.rstN := rfl
@[simp] theorem State.hostRecord_epoch (r : BusResp) : (s.hostRecord r).epoch = s.epoch := rfl
@[simp] theorem State.hostRecord_sched (r : BusResp) : (s.hostRecord r).sched = s.sched := rfl

/-! ### initAction (70 R271) and clearFirstError (60 R251) -/

@[simp] theorem State.initAction_pending : s.initAction.pending = .idle := rfl
@[simp] theorem State.initAction_treeValid : s.initAction.treeValid = s.treeValid := rfl
@[simp] theorem State.initAction_codesValid : s.initAction.codesValid = s.codesValid := rfl
@[simp] theorem State.initAction_errFirst : s.initAction.errFirst = s.errFirst := rfl
@[simp] theorem State.initAction_errFirstOp : s.initAction.errFirstOp = s.errFirstOp := rfl
@[simp] theorem State.initAction_errLast : s.initAction.errLast = s.errLast := rfl
@[simp] theorem State.initAction_doneIe : s.initAction.doneIe = s.doneIe := rfl
@[simp] theorem State.initAction_errIe : s.initAction.errIe = s.errIe := rfl
@[simp] theorem State.initAction_irqDone : s.initAction.irqDone = s.irqDone := rfl
@[simp] theorem State.initAction_result : s.initAction.result = s.result := rfl
@[simp] theorem State.initAction_freqTotal : s.initAction.freqTotal = s.freqTotal := rfl
@[simp] theorem State.initAction_dropCnt : s.initAction.dropCnt = s.dropCnt := rfl
@[simp] theorem State.initAction_distinct : s.initAction.distinct = s.distinct := rfl
@[simp] theorem State.initAction_root : s.initAction.root = s.root := rfl
@[simp] theorem State.initAction_nodeCnt : s.initAction.nodeCnt = s.nodeCnt := rfl
@[simp] theorem State.initAction_treeLen : s.initAction.treeLen = s.treeLen := rfl
@[simp] theorem State.initAction_cartLen : s.initAction.cartLen = s.cartLen := rfl
@[simp] theorem State.initAction_outLen : s.initAction.outLen = s.outLen := rfl
@[simp] theorem State.initAction_treeUsed : s.initAction.treeUsed = s.treeUsed := rfl
@[simp] theorem State.initAction_freq : s.initAction.freq = zeroFreq := rfl
@[simp] theorem State.initAction_nodes : s.initAction.nodes = zeroNodes := rfl
@[simp] theorem State.initAction_code : s.initAction.code = zeroCode := rfl
@[simp] theorem State.initAction_heap : s.initAction.heap = s.heap := rfl
@[simp] theorem State.initAction_hsize : s.initAction.hsize = s.hsize := rfl
@[simp] theorem State.initAction_treeMem : s.initAction.treeMem = s.treeMem := rfl
@[simp] theorem State.initAction_cart : s.initAction.cart = s.cart := rfl
@[simp] theorem State.initAction_out : s.initAction.out = s.out := rfl
@[simp] theorem State.initAction_params : s.initAction.params = s.params := rfl
@[simp] theorem State.initAction_rstN : s.initAction.rstN = s.rstN := rfl
@[simp] theorem State.initAction_epoch : s.initAction.epoch = s.epoch := rfl
@[simp] theorem State.initAction_sched : s.initAction.sched = s.sched := rfl
@[simp] theorem State.initAction_host : s.initAction.host = s.host := rfl

@[simp] theorem State.clearFirstError_pending : s.clearFirstError.pending = s.pending := rfl
@[simp] theorem State.clearFirstError_treeValid : s.clearFirstError.treeValid = s.treeValid := rfl
@[simp] theorem State.clearFirstError_codesValid : s.clearFirstError.codesValid = s.codesValid := rfl
@[simp] theorem State.clearFirstError_errFirst : s.clearFirstError.errFirst = .noError := rfl
@[simp] theorem State.clearFirstError_errFirstOp : s.clearFirstError.errFirstOp = 0#8 := rfl
@[simp] theorem State.clearFirstError_errLast : s.clearFirstError.errLast = s.errLast := rfl
@[simp] theorem State.clearFirstError_doneIe : s.clearFirstError.doneIe = s.doneIe := rfl
@[simp] theorem State.clearFirstError_errIe : s.clearFirstError.errIe = s.errIe := rfl
@[simp] theorem State.clearFirstError_irqDone : s.clearFirstError.irqDone = s.irqDone := rfl
@[simp] theorem State.clearFirstError_result : s.clearFirstError.result = s.result := rfl
@[simp] theorem State.clearFirstError_freqTotal : s.clearFirstError.freqTotal = s.freqTotal := rfl
@[simp] theorem State.clearFirstError_dropCnt : s.clearFirstError.dropCnt = s.dropCnt := rfl
@[simp] theorem State.clearFirstError_distinct : s.clearFirstError.distinct = s.distinct := rfl
@[simp] theorem State.clearFirstError_root : s.clearFirstError.root = s.root := rfl
@[simp] theorem State.clearFirstError_nodeCnt : s.clearFirstError.nodeCnt = s.nodeCnt := rfl
@[simp] theorem State.clearFirstError_treeLen : s.clearFirstError.treeLen = s.treeLen := rfl
@[simp] theorem State.clearFirstError_cartLen : s.clearFirstError.cartLen = s.cartLen := rfl
@[simp] theorem State.clearFirstError_outLen : s.clearFirstError.outLen = s.outLen := rfl
@[simp] theorem State.clearFirstError_treeUsed : s.clearFirstError.treeUsed = s.treeUsed := rfl
@[simp] theorem State.clearFirstError_freq : s.clearFirstError.freq = s.freq := rfl
@[simp] theorem State.clearFirstError_nodes : s.clearFirstError.nodes = s.nodes := rfl
@[simp] theorem State.clearFirstError_code : s.clearFirstError.code = s.code := rfl
@[simp] theorem State.clearFirstError_heap : s.clearFirstError.heap = s.heap := rfl
@[simp] theorem State.clearFirstError_hsize : s.clearFirstError.hsize = s.hsize := rfl
@[simp] theorem State.clearFirstError_treeMem : s.clearFirstError.treeMem = s.treeMem := rfl
@[simp] theorem State.clearFirstError_cart : s.clearFirstError.cart = s.cart := rfl
@[simp] theorem State.clearFirstError_out : s.clearFirstError.out = s.out := rfl
@[simp] theorem State.clearFirstError_params : s.clearFirstError.params = s.params := rfl
@[simp] theorem State.clearFirstError_rstN : s.clearFirstError.rstN = s.rstN := rfl
@[simp] theorem State.clearFirstError_epoch : s.clearFirstError.epoch = s.epoch := rfl
@[simp] theorem State.clearFirstError_sched : s.clearFirstError.sched = s.sched := rfl
@[simp] theorem State.clearFirstError_host : s.clearFirstError.host = s.host := rfl

end Sys2Proof.Machine
end

