-- ==== Sys2Proof/Laws/Memory.lean ====
section
/-! SUPPORT. The byte memories: reading after writing, and the canonical form, which every operation keeps. -/
namespace Sys2Proof.Machine

/-! ### Cells -/

/-- Reading after a write: the written byte at its address, the old one elsewhere. -/
@[simp] theorem Memory.peek_poke (m : Memory) (a b : Nat) (v : Byte) :
    (m.poke a v).peek b = if b = a then some v else m.peek b := by
  induction m with
  | nil => simp [Memory.poke, Memory.peek]
  | cons c rest ih =>
    obtain ⟨k, w⟩ := c
    simp only [Memory.poke]
    split
    · simp [Memory.peek]
    · split
      · rename_i h1 h2; subst h2
        simp only [Memory.peek]
        split <;> rfl
      · rename_i h1 h2
        simp only [Memory.peek, ih]
        by_cases hb : b = k
        · subst hb; simp [Ne.symm h2]
        · simp [hb]

/-- A write adds no address but its own. -/
theorem Memory.mem_poke {m : Memory} {a : Nat} {v : Byte} {c : Host.Cell} (h : c ∈ m.poke a v) :
    c = (a, v) ∨ c ∈ m := by
  induction m with
  | nil => simpa [Memory.poke] using h
  | cons d rest ih =>
    obtain ⟨k, w⟩ := d
    simp only [Memory.poke] at h
    split at h
    · simpa using h
    · split at h
      · rcases List.mem_cons.1 h with h | h
        · exact .inl h
        · exact .inr (List.mem_cons_of_mem _ h)
      · rcases List.mem_cons.1 h with h | h
        · exact .inr (h ▸ List.mem_cons_self)
        · exact (ih h).imp id (List.mem_cons_of_mem _)

/-- A write inside the memory keeps its canonical form. -/
theorem Memory.wf_poke {size : Nat} {m : Memory} {a : Nat} (v : Byte) (hm : m.wf size) (ha : a < size) :
    (m.poke a v).wf size := by
  refine ⟨?_, fun c hc => (Memory.mem_poke hc).elim (fun h => h ▸ ha) (hm.2 c)⟩
  have hs := hm.1
  clear hm ha
  induction m with
  | nil => simp [Memory.poke]
  | cons d rest ih =>
    obtain ⟨k, w⟩ := d
    have hr := List.pairwise_cons.1 hs
    simp only [Memory.poke]
    split
    · rename_i h
      exact List.pairwise_cons.2 ⟨fun c hc => (List.mem_cons.1 hc).elim (fun e => e ▸ h)
        (fun e => lt_trans h (hr.1 c e)), hs⟩
    · split
      · rename_i h1 h2; subst h2
        exact List.pairwise_cons.2 ⟨hr.1, hr.2⟩
      · rename_i h1 h2
        refine List.pairwise_cons.2 ⟨fun c hc => ?_, ih hr.2⟩
        rcases Memory.mem_poke hc with e | e
        · subst e; simp only; omega
        · exact hr.1 c e

/-- Reading after writing a run of bytes. -/
theorem Memory.peek_pokes (bs : List Byte) (m : Memory) (a b : Nat) :
    (m.pokes a bs).peek b = if a ≤ b ∧ b < a + bs.length then bs[b - a]? else m.peek b := by
  induction bs generalizing m a with
  | nil => rw [Memory.pokes, if_neg (by simp)]
  | cons v bs ih =>
    simp only [Memory.pokes, ih, Memory.peek_poke, List.length_cons]
    by_cases hb : b = a
    · subst hb; simp
    · by_cases h : a + 1 ≤ b ∧ b < a + 1 + bs.length
      · have h' : a ≤ b ∧ b < a + (bs.length + 1) := by omega
        have e : b - a = (b - (a + 1)) + 1 := by omega
        rw [if_pos h, if_pos h', e, List.getElem?_cons_succ]
      · have h' : ¬ (a ≤ b ∧ b < a + (bs.length + 1)) := by omega
        rw [if_neg h, if_neg h', if_neg hb]

/-- Writing a run of bytes inside the memory keeps its canonical form. -/
theorem Memory.wf_pokes {size : Nat} (bs : List Byte) {m : Memory} {a : Nat} (hm : m.wf size)
    (ha : a + bs.length ≤ size) : (m.pokes a bs).wf size := by
  induction bs generalizing m a with
  | nil => exact hm
  | cons v bs ih =>
    simp only [List.length_cons] at ha
    exact ih (Memory.wf_poke v hm (by omega)) (by omega)

theorem Memory.peek_append (m m' : Memory) (b : Nat) :
    Memory.peek (m ++ m') b = (m.peek b).orElse (fun _ => m'.peek b) := by
  induction m with
  | nil => simp [Memory.peek]
  | cons d rest ih =>
    obtain ⟨k, w⟩ := d
    simp only [List.cons_append, Memory.peek]
    split <;> simp [ih]

theorem Memory.peek_filter (p : Nat → Bool) (m : Memory) (b : Nat) :
    Memory.peek (m.filter (fun c => p c.1)) b = if p b then m.peek b else none := by
  induction m with
  | nil => simp [Memory.peek]
  | cons d rest ih =>
    obtain ⟨k, w⟩ := d
    simp only [List.filter_cons]
    by_cases hk : p k
    · simp only [hk, if_true, Memory.peek, ih]
      by_cases hb : b = k
      · subst hb; simp [hk]
      · simp [hb]
    · rw [if_neg hk, ih]
      simp only [Memory.peek]
      by_cases hb : b = k
      · subst hb; simp [hk]
      · rw [if_neg hb]

theorem Memory.peek_run (a n b : Nat) (v : Byte) :
    Memory.peek ((List.range n).map (fun k => (a + k, v))) b = if a ≤ b ∧ b < a + n then some v else none := by
  induction n with
  | zero => simp [Memory.peek]
  | succ n ih =>
    rw [List.range_succ, List.map_append, Memory.peek_append, ih]
    simp only [List.map_cons, List.map_nil, Memory.peek]
    by_cases h1 : a ≤ b ∧ b < a + n
    · have h2 : a ≤ b ∧ b < a + (n + 1) := by omega
      simp [h1, h2]
    · by_cases h3 : b = a + n
      · subst h3; simp
      · have h2 : ¬ (a ≤ b ∧ b < a + (n + 1)) := by omega
        simp [h1, h2, h3]

/-- Reading after a fill. -/
theorem Memory.peek_fill (m : Memory) (a n b : Nat) (v : Byte) :
    (m.fill a n v).peek b = if a ≤ b ∧ b < a + n then some v else m.peek b := by
  unfold Memory.fill
  rw [Memory.peek_append, Memory.peek_append, Memory.peek_run,
    Memory.peek_filter (fun x => decide (x < a)), Memory.peek_filter (fun x => decide (a + n ≤ x))]
  by_cases h1 : b < a
  · have : ¬ (a ≤ b ∧ b < a + n) := by omega
    have h2 : ¬ (a + n ≤ b) := by omega
    simp only [h1, decide_true, if_true, this, h2, if_false, decide_false]
    cases m.peek b <;> simp
  · by_cases h2 : b < a + n
    · have : a ≤ b ∧ b < a + n := by omega
      simp [h1, this]
    · have : ¬ (a ≤ b ∧ b < a + n) := by omega
      have h3 : a + n ≤ b := by omega
      simp [h1, this, h3]

/-- A fill inside the memory keeps its canonical form. -/
theorem Memory.wf_fill {size : Nat} {m : Memory} {a n : Nat} (v : Byte) (hm : m.wf size) (ha : a + n ≤ size) :
    (m.fill a n v).wf size := by
  unfold Memory.fill
  constructor
  · rw [List.pairwise_append, List.pairwise_append]
    refine ⟨⟨hm.1.filter _, ?_, ?_⟩, hm.1.filter _, ?_⟩
    · rw [List.pairwise_map]
      exact List.pairwise_lt_range.imp (by intro x y h; simp only; omega)
    · intro x hx y hy
      simp only [List.mem_filter, decide_eq_true_eq] at hx
      obtain ⟨k, -, rfl⟩ := List.mem_map.1 hy
      simp only; omega
    · intro x hx y hy
      simp only [List.mem_filter, decide_eq_true_eq] at hy
      rcases List.mem_append.1 hx with hx | hx
      · simp only [List.mem_filter, decide_eq_true_eq] at hx
        omega
      · obtain ⟨k, hk, rfl⟩ := List.mem_map.1 hx
        have := List.mem_range.1 hk
        simp only; omega
  · intro c hc
    rcases List.mem_append.1 hc with hc | hc
    · rcases List.mem_append.1 hc with hc | hc
      · exact hm.2 c (List.mem_filter.1 hc).1
      · obtain ⟨k, hk, rfl⟩ := List.mem_map.1 hc
        have := List.mem_range.1 hk
        simp only; omega
    · exact hm.2 c (List.mem_filter.1 hc).1

/-! ### The state's memories -/

@[simp] theorem State.mem_setMem (s : State) (m m' : ByteMem) (x : Memory) :
    (s.setMem m x).mem m' = if m' = m then x else s.mem m' := by
  cases m <;> cases m' <;> rfl

/-- `MemRead` after `MemWrite` (00 R11). -/
theorem State.memRead_memWrite (s : State) (m m' : ByteMem) (a b : Nat) (v : Byte) :
    (s.memWrite m a v).memRead m' b = if m' = m ∧ b = a then v else s.memRead m' b := by
  unfold State.memRead State.memWrite
  rw [State.mem_setMem, State.setMem_epoch]
  by_cases hm : m' = m
  · subst hm
    by_cases hb : b = a <;> simp [hb]
  · simp [hm]

/-- `MemRead` after a run of `MemWrite`s. -/
theorem State.memRead_memWrites (s : State) (m m' : ByteMem) (a b : Nat) (bs : List Byte) :
    (s.memWrites m a bs).memRead m' b =
      if m' = m ∧ a ≤ b ∧ b < a + bs.length then bs.getD (b - a) 0#8 else s.memRead m' b := by
  unfold State.memRead State.memWrites
  rw [State.mem_setMem, State.setMem_epoch]
  by_cases hm : m' = m
  · subst hm
    rw [if_pos rfl, Memory.peek_pokes]
    by_cases hb : a ≤ b ∧ b < a + bs.length
    · have h : b - a < bs.length := by omega
      simp [hb, h]
    · simp [hb]
  · simp [hm]

@[simp] theorem State.mem_done (s : State) (m : ByteMem) (r : Word) : (s.done r).mem m = s.mem m := by cases m <;> rfl

@[simp] theorem State.mem_raise (s : State) (m : ByteMem) (e : ErrCode) (d : Word) : (s.raise e d).mem m = s.mem m := by
  cases m <;> rfl

@[simp] theorem State.memRead_done (s : State) (m : ByteMem) (a : Nat) (r : Word) :
    (s.done r).memRead m a = s.memRead m a := by cases m <;> rfl

@[simp] theorem State.memRead_raise (s : State) (m : ByteMem) (a : Nat) (e : ErrCode) (d : Word) :
    (s.raise e d).memRead m a = s.memRead m a := by cases m <;> rfl

/-- The reset memories have the canonical form. -/
theorem State.resetWith_mem_wf (p : Params) (m : ByteMem) :
    ((State.resetWith p).mem m).wf (memSize (State.resetWith p).params m) := by
  cases m <;> exact ⟨List.Pairwise.nil, by simp [State.mem, State.resetWith]⟩

/-! ### The packed bits (40 R140, R141) -/

/-- Replacing one bit of a byte leaves the other seven. -/
theorem getLsbD_putBit (v : Byte) (p j : Nat) (b : Bool) (hp : p < 8) (hj : j < 8) :
    (putBit v p b).getLsbD j = if j = p then b else v.getLsbD j := by
  unfold putBit
  interval_cases p <;> interval_cases j <;> cases b <;> simp

/-- The bit buffer after `setbit`. -/
theorem State.getbit_setbit (s : State) (i j : Nat) (b : Bool) :
    (s.setbit i b).getbit j = if j = i then b else s.getbit j := by
  unfold State.getbit State.setbit
  rw [State.memRead_memWrite]
  by_cases h : bitAddr j = bitAddr i
  · simp only [h, and_self, if_true]
    rw [getLsbD_putBit _ _ _ _ (Nat.mod_lt _ (by decide)) (Nat.mod_lt _ (by decide))]
    unfold bitAddr at h
    by_cases hji : j = i
    · simp [hji]
    · have : ¬ (j % 8 = i % 8) := by omega
      simp [hji, this]
  · have : j ≠ i := fun e => h (by rw [e])
    simp [h, this]

/-- `setbit` writes one byte of the payload. -/
theorem State.memRead_setbit (s : State) (m : ByteMem) (i a : Nat) (b : Bool) (h : m = .cart → a ≠ bitAddr i) :
    (s.setbit i b).memRead m a = s.memRead m a := by
  unfold State.setbit
  rw [State.memRead_memWrite, if_neg]
  rintro ⟨h1, h2⟩
  exact h h1 h2

/-- `setbit` leaves the header. -/
@[simp] theorem State.be32_setbit (s : State) (i : Nat) (b : Bool) : (s.setbit i b).be32 = s.be32 := by
  have h : ∀ k, k < 4 → (s.setbit i b).memRead .cart k = s.memRead .cart k := fun k hk =>
    s.memRead_setbit .cart i k b (by unfold bitAddr; omega)
  unfold State.be32
  rw [h 0 (by omega), h 1 (by omega), h 2 (by omega), h 3 (by omega)]

/-- Reading CART after `setHdr`, past the header. -/
theorem State.memRead_setHdr (s : State) (n : Word) (m : ByteMem) (a : Nat) (h : m = .cart → 4 ≤ a) :
    (s.setHdr n).memRead m a = s.memRead m a := by
  unfold State.setHdr
  rw [State.memRead_memWrites, if_neg]
  rintro ⟨h1, -, h2⟩
  have := h h1
  simp only [List.length_cons, List.length_nil] at h2
  omega

@[simp] theorem State.getbit_setHdr (s : State) (n : Word) (i : Nat) : (s.setHdr n).getbit i = s.getbit i := by
  unfold State.getbit
  rw [State.memRead_setHdr _ _ _ _ (by intro; unfold bitAddr; omega)]

/-- A word is its four bytes. -/
theorem word_of_bytes (n : Word) :
    n.extractLsb' 24 8 ++ n.extractLsb' 16 8 ++ n.extractLsb' 8 8 ++ n.extractLsb' 0 8 = n := by
  rw [BitVec.extractLsb'_append_extractLsb'_eq_extractLsb' (by decide),
    BitVec.extractLsb'_append_extractLsb'_eq_extractLsb' (by decide),
    BitVec.extractLsb'_append_extractLsb'_eq_extractLsb' (by decide)]
  simp

/-- The header reads back (40 R141). -/
@[simp] theorem State.be32_setHdr (s : State) (n : Word) : (s.setHdr n).be32 = n := by
  unfold State.be32 State.setHdr
  simp only [State.memRead_memWrites]
  exact word_of_bytes n

/-- The bit buffer after the append loop of 44 R185. -/
theorem State.getbit_setbits (s : State) (n : Nat) (f : Nat → Bool) (len j i : Nat) :
    (s.setbits n f len j).getbit i = if n + j ≤ i ∧ i < n + j + len then f (i - n) else s.getbit i := by
  induction len generalizing s j with
  | zero => rw [State.setbits, if_neg (by omega)]
  | succ len ih =>
    rw [State.setbits, ih, State.getbit_setbit]
    by_cases h1 : i = n + j
    · subst h1
      simp
    · by_cases h2 : n + (j + 1) ≤ i ∧ i < n + (j + 1) + len
      · have h3 : n + j ≤ i ∧ i < n + j + (len + 1) := by omega
        simp [h2, h3]
      · have h3 : ¬ (n + j ≤ i ∧ i < n + j + (len + 1)) := by omega
        simp [h1, h2, h3]

@[simp] theorem State.be32_setbits (s : State) (n : Nat) (f : Nat → Bool) (len j : Nat) :
    (s.setbits n f len j).be32 = s.be32 := by
  induction len generalizing s j with
  | zero => rfl
  | succ len ih => rw [State.setbits, ih, State.be32_setbit]

/-- The append loop changes CART alone. -/
theorem State.setbits_eq (s : State) (n : Nat) (f : Nat → Bool) (len j : Nat) :
    ∃ x, s.setbits n f len j = { s with cart := x } := by
  induction len generalizing s j with
  | zero => exact ⟨s.cart, rfl⟩
  | succ len ih =>
    obtain ⟨x, hx⟩ := ih (s.setbit (n + j) (f j)) (j + 1)
    exact ⟨x, hx⟩

end Sys2Proof.Machine
end

