-- ==== Sys2Proof/Laws/Completion.lean ====
section
/-! SUPPORT. What the two completions leave (60 R244, R245), how frames compose with them, and the tables' read-after-write. -/
namespace Sys2Proof.Safety
open Sys2Proof.Machine

/-- `done` completes whatever a command did before it, as long as that kept the first error. -/
theorem completed_done {s u : State} (r : Word) (hf : u.errFirst = s.errFirst) (ho : u.errFirstOp = s.errFirstOp) :
    Completed s (u.done r) r :=
  ⟨rfl, rfl, hf, ho, rfl, rfl⟩

/-- `raise` fails whatever a command did before it, as long as that kept the first error and the pending word. -/
theorem failed_raise {s u : State} (e : ErrCode) (d : Word) (hf : u.errFirst = s.errFirst)
    (ho : u.errFirstOp = s.errFirstOp) (hp : u.pending = s.pending) : Failed s (u.raise e d) e d := by
  have hop : u.pendingOp = s.pendingOp := by unfold State.pendingOp; rw [hp]
  exact ⟨rfl, rfl, by simp [hf], by simp [hf, ho, hop], rfl, rfl⟩

theorem keeps_refl (ps : List Piece) (s : State) : KeepsAllBut ps s s := by
  intro p _
  cases p <;> simp [Piece.same]

theorem keeps_mono {ps qs : List Piece} {s t : State} (h : ∀ p ∈ ps, p ∈ qs) (k : KeepsAllBut ps s t) :
    KeepsAllBut qs s t := fun p hp => k p (fun hq => hp (h p hq))

theorem keeps_trans {ps : List Piece} {s t u : State} (h : KeepsAllBut ps s t) (k : KeepsAllBut ps t u) :
    KeepsAllBut ps s u := by
  intro p hp
  have a := h p hp
  have b := k p hp
  cases p <;> simp_all [Piece.same]

/-- `done` writes the completion state only. -/
theorem keeps_done {ps : List Piece} {s u : State} (r : Word) (h : KeepsAllBut ps s u) :
    KeepsAllBut ps s (u.done r) := by
  intro p hp
  have := h p hp
  cases p <;> simpa [Piece.same] using this

/-- `raise` writes the completion state only. -/
theorem keeps_raise {ps : List Piece} {s u : State} (e : ErrCode) (d : Word) (h : KeepsAllBut ps s u) :
    KeepsAllBut ps s (u.raise e d) := by
  intro p hp
  have := h p hp
  cases p <;> simpa [Piece.same] using this

/-- A command that does nothing but fail. -/
theorem fails_alone (s : State) (e : ErrCode) (d : Word) :
    Failed s (s.raise e d) e d ∧ KeepsAllBut [] s (s.raise e d) :=
  ⟨failed_raise e d rfl rfl rfl, keeps_raise e d (keeps_refl _ _)⟩

/-- Replacing a byte memory keeps everything but its bytes. -/
theorem keeps_setMem (s : State) (m : ByteMem) (x : Memory) : KeepsAllBut [.bytes m] s (s.setMem m x) := by
  intro p hp
  cases p with
  | bytes m' =>
    have hm : m' ≠ m := by rintro rfl; exact hp (by simp)
    intro a
    unfold State.memRead
    rw [State.mem_setMem, State.setMem_epoch, if_neg hm]
  | _ => simp [Piece.same]

end Sys2Proof.Safety

namespace Sys2Proof.Machine

/-! ### Tables -/

@[simp] theorem nodeAt_setNode (v : Vector Node 256) (i j : Slot) (n : Node) :
    nodeAt (setNode v i n) j = if j = i then n else nodeAt v j := by
  unfold nodeAt setNode
  rw [Vector.getElem_set]
  by_cases h : j = i
  · subst h; simp
  · have : i.toNat ≠ j.toNat := fun e => h (BitVec.eq_of_toNat_eq e.symm)
    simp [h, this]

@[simp] theorem nodeAt_zeroNodes (i : Slot) : nodeAt zeroNodes i = Node.zero := by
  simp [nodeAt, zeroNodes]

/-- Reading the heap after writing it, inside its 128 entries. -/
theorem heapAt_heapSet (h : Vector Slot 128) (j k : Nat) (x : Slot) (hj : j < 128) (hk : k < 128) :
    heapAt (heapSet h k x) j = if j = k then x else heapAt h j := by
  unfold heapAt heapSet
  rw [Vector.getElem_set]
  simp only [Nat.mod_eq_of_lt hj, Nat.mod_eq_of_lt hk]
  by_cases e : j = k
  · subst e; simp
  · simp [e, Ne.symm e]

/-- FREQ after counting a symbol (41 R151). -/
theorem State.freqAt_countSym (s : State) (y z : Sym) :
    (s.countSym y).freqAt z = if z = y then s.freqAt y + 1#32 else s.freqAt z := by
  unfold State.freqAt State.countSym
  simp only
  rw [Vector.getElem_set]
  by_cases h : z = y
  · subst h; simp [State.freqAt]
  · have : y.toNat ≠ z.toNat := fun e => h (BitVec.eq_of_toNat_eq e.symm)
    simp [h, this]

@[simp] theorem nodes_offer (b : Builder) (x : Slot) : (b.offer x).nodes = b.nodes := rfl

@[simp] theorem cnt_offer (b : Builder) (x : Slot) : (b.offer x).cnt = b.cnt := rfl

@[simp] theorem hsize_offer (b : Builder) (x : Slot) : (b.offer x).hsize = b.hsize + 1 := rfl

@[simp] theorem nodes_poll (b : Builder) : b.poll.2.nodes = b.nodes := rfl

@[simp] theorem cnt_poll (b : Builder) : b.poll.2.cnt = b.cnt := rfl

@[simp] theorem hsize_poll (b : Builder) : b.poll.2.hsize = b.hsize - 1 := rfl

end Sys2Proof.Machine
end

