-- ==== Sys2Proof/Laws/Host.lean ====
section
/-! SUPPORT. The byte pseudo-operations of the host (30 R127) and runs of host operations. -/
namespace Sys2Proof.Machine

@[simp] theorem length_wordBytes (w : Word) : (wordBytes w).length = 4 := rfl

/-- Unpacking a word packed little-endian gives its bytes back (20 R85). -/
@[simp] theorem wordBytes_append (b3 b2 b1 b0 : Byte) : wordBytes (b3 ++ b2 ++ b1 ++ b0) = [b0, b1, b2, b3] := by
  simp only [wordBytes, List.cons.injEq, and_true]
  refine ⟨?_, ?_, ?_, ?_⟩ <;>
    (apply BitVec.eq_of_getLsbD_eq
     intro i hi
     simp only [BitVec.getLsbD_extractLsb', BitVec.getLsbD_append, hi, decide_true, Bool.true_and])
  · simp [hi]
  · simp [show 8 + i - 8 = i by omega, hi]
  · simp [show ¬ 16 + i < 8 by omega, show ¬ 16 + i - 8 < 8 by omega, show 16 + i - 8 - 8 = i by omega, hi]
  · simp [show ¬ 24 + i < 8 by omega, show ¬ 24 + i - 8 < 8 by omega, show ¬ 24 + i - 8 - 8 < 8 by omega,
      show 24 + i - 8 - 8 - 8 = i by omega]

@[simp] theorem respBytes_nil : respBytes [] = some [] := rfl

@[simp] theorem respBytes_word (w : Word) (rs : List BusResp) :
    respBytes (.word w :: rs) = (respBytes rs).map (wordBytes w ++ ·) := rfl

/-- Reads that all returned words unpack to the words' bytes, in order. -/
theorem respBytes_words (ws : List Word) : respBytes (ws.map .word) = some (ws.flatMap wordBytes) := by
  induction ws with
  | nil => rfl
  | cons w ws ih => simp [ih]

end Sys2Proof.Machine

namespace Sys2Proof.Safety
open Sys2Proof.Machine

@[simp] theorem runHostOps_nil (s : State) : runHostOps [] s = .next s := rfl

/-- A run of host operations goes on from the state its first part leaves. -/
theorem runHostOps_append {s t : State} {ops : List HostOp} (more : List HostOp) (h : runHostOps ops s = .next t) :
    runHostOps (ops ++ more) s = runHostOps more t := by
  induction ops generalizing s with
  | nil => simp only [runHostOps_nil, Host.Outcome.next.injEq] at h; simp [h]
  | cons op ops ih =>
    simp only [List.cons_append, runHostOps] at h ⊢
    split at h
    · exact ih h
    · cases h
    · cases h

end Sys2Proof.Safety
end

