-- ==== Sys2Proof/Laws/PerInstr.lean ====
section
/-! SUPPORT. Statements about every command as syntax, one lemma per constructor. -/
namespace Sys2Proof.Laws.EncodedOpcode

/-- The low byte of a command's word is its opcode, and the 24 bits above it are its fields (30 R112, R119). -/
def Statement (i : Instr) : Prop :=
  opField (encode i) = i.opcode ∧ (encode i).extractLsb' 8 24 = i.fields

/-- The word `{field, OP}` gives back its two parts. -/
theorem split (i : Instr) : Statement i := by
  constructor
  · ext k hk
    simp only [opField, encode, BitVec.getElem_extractLsb', Nat.zero_add, BitVec.getLsbD_append, hk, if_true]
    exact BitVec.getLsbD_eq_getElem hk
  · ext k hk
    simp only [encode, BitVec.getElem_extractLsb', BitVec.getLsbD_append]
    rw [if_neg (by omega), Nat.add_sub_cancel_left]
    exact BitVec.getLsbD_eq_getElem hk

theorem nop : Statement .nop := split _
theorem srst : Statement .srst := split _
theorem freqClr : Statement .freqClr := split _
theorem freqAdd (c : Nat) : Statement (.freqAdd c) := split _
theorem build : Statement .build := split _
theorem codegen : Statement .codegen := split _
theorem bbCreate (n : Nat) : Statement (.bbCreate n) := split _
theorem bbSet (i : Nat) (b : Bool) : Statement (.bbSet i b) := split _
theorem bbGet (i : Nat) : Statement (.bbGet i) := split _
theorem encChar (c : Nat) : Statement (.encChar c) := split _
theorem decode : Statement .decode := split _
theorem ser : Statement .ser := split _
theorem deser : Statement .deser := split _

end Sys2Proof.Laws.EncodedOpcode
end

