-- ==== Sys2Proof/Laws/Queue.lean ====
section
/-! SUPPORT. The loops of the priority queue and of BUILD: enough fuel gives one result (42 R161, R162, R167). -/
namespace Sys2Proof.Machine

/-- The lesser child lies below its parent. -/
theorem lt_lesserChild (key : Slot → Nat) (n k : Nat) (h : Vector Slot 128) : k < lesserChild key n k h := by
  unfold lesserChild
  simp only
  split <;> omega

/-- `siftUp` ends within `k` turns. -/
theorem siftUp_fuel (key : Slot → Nat) (x : Slot) (f g k : Nat) (h : Vector Slot 128) (hf : k ≤ f) (hg : k ≤ g) :
    siftUp key x f k h = siftUp key x g k h := by
  induction f generalizing g k h with
  | zero =>
    obtain rfl : k = 0 := by omega
    cases g <;> simp [siftUp]
  | succ f ih =>
    cases g with
    | zero =>
      obtain rfl : k = 0 := by omega
      simp [siftUp]
    | succ g =>
      simp only [siftUp]
      split
      · rfl
      · split
        · rfl
        · exact ih _ _ _ (by omega) (by omega)

/-- `siftDown` from `k` ends within `n - k` turns. -/
theorem siftDown_fuel (key : Slot → Nat) (x : Slot) (n f g k : Nat) (h : Vector Slot 128) (hf : n ≤ f + k)
    (hg : n ≤ g + k) : siftDown key x n f k h = siftDown key x n g k h := by
  induction f generalizing g k h with
  | zero =>
    cases g with
    | zero => rfl
    | succ g => simp only [siftDown]; rw [if_neg (by omega)]
  | succ f ih =>
    cases g with
    | zero => simp only [siftDown]; rw [if_neg (by omega)]
    | succ g =>
      have := lt_lesserChild key n k h
      simp only [siftDown]
      split
      · split
        · rfl
        · exact ih _ _ _ (by omega) (by omega)
      · rfl

@[simp] theorem hsize_combine (b : Builder) (a c : Slot) : (b.combine a c).hsize = b.hsize + 1 := rfl

/-- BUILD's main loop ends within HSIZE turns (42 R167). -/
theorem buildLoop_fuel (f g : Nat) (b : Builder) (hf : b.hsize ≤ f) (hg : b.hsize ≤ g) :
    buildLoop f b = buildLoop g b := by
  induction f generalizing g b with
  | zero =>
    cases g with
    | zero => rfl
    | succ g => simp only [buildLoop]; rw [if_pos (by omega)]
  | succ f ih =>
    cases g with
    | zero => simp only [buildLoop]; rw [if_pos (by omega)]
    | succ g =>
      simp only [buildLoop]
      split
      · rfl
      · split
        · rfl
        · rename_i h1
          simp only [hsize_poll] at h1
          exact ih _ _ (by simp only [hsize_combine, hsize_poll]; omega)
            (by simp only [hsize_combine, hsize_poll]; omega)

end Sys2Proof.Machine
end

