-- ==== Sys2Proof/Laws/Step.lean ====
section
/-! SUPPORT. Everything a step can do, said once, and what the bus and the schedule can do. -/
namespace Sys2Proof.Machine

/-! ### The bus -/

/-- A read leaves the state or records a busy violation (20 R89, 70 R282). -/
theorem State.busRead_state (s : State) (a : Offset) :
    (s.busRead a).2 = s ∨ s.busy = true ∧ (s.busRead a).2 = s.recordBusyViolation := by
  unfold State.busRead
  split
  · exact .inl rfl
  · split
    · rename_i h
      exact .inr ⟨by simpa [State.violates] using (Bool.and_eq_true_iff.1 h).1, rfl⟩
    · exact .inl rfl

/-- A write leaves the state, records a busy violation, or writes one mapped location that is free to be accessed. -/
theorem State.busWrite_state (s : State) (a : Offset) (d : Word) :
    (s.busWrite a d).2 = s ∨ (s.busy = true ∧ (s.busWrite a d).2 = s.recordBusyViolation) ∨
      ∃ l, s.target a = some l ∧ s.violates l = false ∧ (s.busWrite a d).2 = s.writeLoc d l := by
  unfold State.busWrite
  cases h : s.target a with
  | none => exact .inl rfl
  | some l =>
    simp only
    split
    · rename_i hv
      exact .inr (.inl ⟨by simpa [State.violates] using (Bool.and_eq_true_iff.1 hv).1, rfl⟩)
    · rename_i hv
      exact .inr (.inr ⟨l, rfl, by simpa using hv, rfl⟩)

/-- A status read is never a violation and never fails (70 R281). -/
theorem State.busRead_status (s : State) : s.busRead statusOffset = (.word s.statusWord, s) := by
  have h : s.target statusOffset = some (.reg .status) := rfl
  unfold State.busRead
  rw [h]
  simp [State.violates, Loc.isCtl, State.readLoc, State.readReg]

/-! ### The schedule -/

/-- A host step takes one off what is left. -/
theorem Schedule.left_tick (q : Schedule) : q.tick.left = q.left - 1 := by
  obtain ⟨queue, draws⟩ := q
  cases queue <;> rfl

/-! ### One step -/

/-- Everything a step that answers a next state can be: INIT, a pending word that decodes, an illegal word, the idle block
with its host's program ended, or one host operation. -/
theorem step_cases {s t : State} (h : step s = .next t) :
    (s.engineTurn = true ∧ s.pending = .init ∧ t = { s with sched := s.sched.pop }.initAction) ∨
    (∃ w i, s.engineTurn = true ∧ s.pending = .command w ∧ decode w = .ok i ∧
      exec i { s with sched := s.sched.pop } = .next t) ∨
    (∃ w e, s.engineTurn = true ∧ s.pending = .command w ∧ decode w = .error e ∧
      t = { s with sched := s.sched.pop }.raise .illegalCmd 0#32) ∨
    (s.engineTurn = false ∧ s.nextOp = none ∧ t = s) ∨
    (∃ op, s.engineTurn = false ∧ s.nextOp = some op ∧
      hostOp (if s.rstN && s.busy then { s with sched := s.sched.tick } else s) op = .next t) := by
  unfold step at h
  cases ht : s.engineTurn with
  | true =>
    rw [ht] at h
    simp only [if_true, engineStep] at h
    cases hp : s.pending with
    | idle =>
      have : s.busy = true := by
        have := ht
        simp only [State.engineTurn, Bool.and_eq_true] at this
        exact this.1.2
      simp [State.busy, hp] at this
    | init =>
      rw [hp] at h
      exact .inl ⟨rfl, rfl, (Host.Outcome.next.inj h).symm⟩
    | command w =>
      rw [hp] at h
      simp only [runWord] at h
      cases hd : decode w with
      | ok i =>
        rw [hd] at h
        exact .inr (.inl ⟨w, i, rfl, rfl, hd, h⟩)
      | error e =>
        rw [hd] at h
        exact .inr (.inr (.inl ⟨w, e, rfl, rfl, hd, (Host.Outcome.next.inj h).symm⟩))
  | false =>
    rw [ht] at h
    simp only [Bool.false_eq_true, if_false, hostStep] at h
    cases hn : s.nextOp with
    | none =>
      rw [hn] at h
      exact .inr (.inr (.inr (.inl ⟨rfl, rfl, (Host.Outcome.next.inj h).symm⟩)))
    | some op =>
      rw [hn] at h
      exact .inr (.inr (.inr (.inr ⟨op, rfl, rfl, h⟩)))

/-- Everything one host operation that answers a next state can be. -/
theorem hostOp_cases {s t : State} {op : HostOp} (h : hostOp s op = .next t) :
    (∃ a d, op = .write a d ∧ s.rstN = true ∧ t = s.hostWrite a d) ∨
    (∃ a, op = .read a ∧ s.rstN = true ∧ t = s.hostRead a) ∨
    (op = .wait ∧ s.rstN = true ∧ t = s.hostWait) ∨
    (op = .rstLow ∧ t = { s with rstN := false }.hostAdvance) ∨
    (op = .rstHigh ∧ s.rstN = true ∧ t = s.hostAdvance) ∨
    (op = .rstHigh ∧ s.rstN = false ∧ t = s.release.hostAdvance) := by
  cases op <;> cases hr : s.rstN <;> simp [hostOp, hr] at h <;> simp [← h]

end Sys2Proof.Machine
end

