-- ==== Sys2Proof/Laws/Tree.lean ====
section
/-! SUPPORT. Reading a tree from the arena: more fuel reads the same tree, and its sizes. -/
namespace Sys2Proof.Machine
open Sys2Proof.Safety

theorem Tree.size_pos (t : Tree) : 0 < t.size := by
  cases t <;> simp [Tree.size]

/-- A tree has one node fewer than twice its leaves (42 R166, 46 R212). -/
theorem Tree.size_add_one (t : Tree) : t.size + 1 = 2 * t.symbols.length := by
  induction t with
  | leaf y => rfl
  | node l r hl hr => simp [Tree.size, Tree.symbols]; omega

/-- The artifact of `k` leaves has `3k - 1` bytes (46 R212). -/
theorem Tree.length_serialize (t : Tree) : t.serialize.length + 1 = 3 * t.symbols.length := by
  induction t with
  | leaf y => rfl
  | node l r hl hr => simp [Tree.serialize, Tree.symbols]; omega

theorem Tree.length_codes (t : Tree) (p : BitVec 128) (d : Nat) : (t.codes p d).length = t.symbols.length := by
  induction t generalizing p d with
  | leaf y => rfl
  | node l r hl hr => simp [Tree.codes, Tree.symbols, hl, hr]

/-- The serialization is an artifact of the grammar (46 R210). -/
theorem Tree.serialize_isArtifact (t : Tree) : IsArtifact t.serialize t := by
  induction t with
  | leaf y =>
    refine IsArtifact.leaf y _ ?_
    simp [BitVec.toNat_setWidth]
    have := y.isLt
    omega
  | node l r hl hr => exact IsArtifact.node _ _ _ _ hl hr

/-- What `readTree` reads at an internal node. -/
theorem readTree_node {nodes : Vector Node 256} {fuel : Nat} {i : Slot} {t : Tree}
    (h : readTree nodes (fuel + 1) i = some t) (hl : (nodeAt nodes i).leaf = false) :
    ∃ l r, readTree nodes fuel (nodeAt nodes i).left = some l ∧
      readTree nodes fuel (nodeAt nodes i).right = some r ∧ t = .node l r := by
  rw [readTree, hl] at h
  simp only [Bool.false_eq_true, if_false] at h
  split at h
  · rename_i l r e1 e2
    exact ⟨l, r, e1, e2, (Option.some.inj h).symm⟩
  · exact absurd h (by simp)

/-- More fuel reads the same tree. -/
theorem readTree_mono {nodes : Vector Node 256} {fuel : Nat} {i : Slot} {t : Tree} (more : Nat)
    (h : readTree nodes fuel i = some t) : readTree nodes (fuel + more) i = some t := by
  induction fuel generalizing i t with
  | zero => simp [readTree] at h
  | succ fuel ih =>
    rw [Nat.succ_add_eq_add_succ, Nat.add_succ]
    cases hl : (nodeAt nodes i).leaf with
    | true =>
      rw [readTree, hl] at h ⊢
      simpa using h
    | false =>
      obtain ⟨l, r, e1, e2, rfl⟩ := readTree_node h hl
      rw [readTree, hl, ih e1, ih e2]
      simp

/-- The walk visits as many slots as the tree has nodes. -/
theorem length_slotsFrom {nodes : Vector Node 256} {fuel : Nat} {i : Slot} {t : Tree}
    (h : readTree nodes fuel i = some t) : (slotsFrom nodes fuel i).length = t.size := by
  induction fuel generalizing i t with
  | zero => simp [readTree] at h
  | succ fuel ih =>
    cases hl : (nodeAt nodes i).leaf with
    | true =>
      rw [readTree, hl] at h
      simp only [if_true, Option.some.injEq] at h
      subst h
      simp [slotsFrom, hl, Tree.size]
    | false =>
      obtain ⟨l, r, e1, e2, rfl⟩ := readTree_node h hl
      simp [slotsFrom, hl, Tree.size, ih e1, ih e2]
      omega

/-- While the arena holds a tree (10 R62), the walks of CODEGEN and SER have one to walk. -/
theorem tree?_of_ok {s : State} (h : TreeOk s.nodes s.root s.nodeCnt.toNat) :
    ∃ t, s.tree? = some t ∧ readTree s.nodes 128 s.root = some t ∧ t.symbols.Nodup ∧ t.size = s.nodeCnt.toNat := by
  obtain ⟨t, ht, hn⟩ := h.reads
  have hs : t.size = s.nodeCnt.toNat := by
    rw [← length_slotsFrom ht, h.slots.length_eq, List.length_range]
  refine ⟨t, ?_, ht, hn, hs⟩
  unfold State.tree?
  simp only [Config.codeMaxLen, Config.maxNodes]
  rw [ht]
  simp [hs, h.small]

/-- What `tree?` reads. -/
theorem readTree_of_tree? {s : State} {t : Tree} (h : s.tree? = some t) :
    readTree s.nodes 128 s.root = some t ∧ t.size ≤ 255 := by
  unfold State.tree? at h
  simp only [Config.codeMaxLen, Config.maxNodes] at h
  split at h
  · rename_i u hu
    split at h
    · rename_i hsz
      exact ⟨(Option.some.inj h) ▸ hu, (Option.some.inj h) ▸ hsz⟩
    · exact absurd h (by simp)
  · exact absurd h (by simp)

end Sys2Proof.Machine
end

