-- ==== Sys2Proof/Tests/Slice0.lean ====
section
/-! SUPPORT. Tests against the words and vectors of spec/ (95_test_vectors.md and each rule's examples; expected values are
the spec's or worked by hand from its rules), and witnesses that the hypotheses of the statements can be met. -/
namespace Sys2Proof.Tests
open Sys2Proof.Machine Sys2Proof.Safety
-- One theorem at a time: each `decide +kernel` below would otherwise hold a thread of its own.
set_option Elab.async false

/-! ### Well-formedness: a term each check refuses -/

theorem test_wf_freqAdd : (Instr.freqAdd (2 ^ 24)).wellFormed = false := by decide
theorem test_wf_bbCreate : (Instr.bbCreate (2 ^ 24)).wellFormed = false := by decide
theorem test_wf_bbSet : (Instr.bbSet (2 ^ 23) true).wellFormed = false := by decide
theorem test_wf_bbGet : (Instr.bbGet (2 ^ 23)).wellFormed = false := by decide
theorem test_wf_encChar : (Instr.encChar (2 ^ 24)).wellFormed = false := by decide
theorem test_wf_accepts_largest : (Instr.bbSet (2 ^ 23 - 1) true).wellFormed = true := by decide

/-! ### Decoding: words from 30 R119, R122 and 95 -/

theorem test_decode_nop : decode 0x00000000#32 = .ok .nop := by decide
theorem test_decode_srst : decode 0x00000001#32 = .ok .srst := by decide
theorem test_decode_freqClr : decode 0x00000010#32 = .ok .freqClr := by decide
theorem test_decode_freqAdd : decode 0x00004511#32 = .ok (.freqAdd 0x45) := by decide
theorem test_decode_build : decode 0x00000020#32 = .ok .build := by decide
theorem test_decode_codegen : decode 0x00000021#32 = .ok .codegen := by decide
theorem test_decode_bbCreate : decode 0x00000A30#32 = .ok (.bbCreate 10) := by decide
theorem test_decode_bbSet : decode 0x00001331#32 = .ok (.bbSet 9 true) := by decide
theorem test_decode_bbGet : decode 0x00001232#32 = .ok (.bbGet 9) := by decide
theorem test_decode_encChar : decode 0x00004538#32 = .ok (.encChar 0x45) := by decide
theorem test_decode_decode : decode 0x00000039#32 = .ok .decode := by decide
theorem test_decode_ser : decode 0x00000040#32 = .ok .ser := by decide
theorem test_decode_deser : decode 0x00000041#32 = .ok .deser := by decide

/-- 95 K-1, K-2, B-16, K-4. -/
theorem test_decode_illegal :
    decode 0x00000002#32 = .error (.unlistedOpcode 0x02#8) ∧ decode 0x00000100#32 = .error (.reservedField 0x00#8) ∧
    decode 0x00000132#32 = .error (.reservedField 0x32#8) ∧ decode 0x80000040#32 = .error (.reservedField 0x40#8) := by
  decide

/-- 30 R122: `BB_SET 9, 1`. -/
theorem test_encode_bbSet : encode (.bbSet 9 true) = 0x00001331#32 := by decide

/-! ### States -/

/-- The state after INIT (95, S0), with the smallest parameters. -/
def s0 : State := { State.resetWith { cartBytes := 8, outBytes := 4 } with pending := .idle }

/-- `s0` with a CART header of `n` bits and the payload bytes `bs`, and CART_LEN right. -/
def withCart (s : State) (n : Byte) (bs : List Byte) : State :=
  { s with cart := Memory.pokes [(0, 0#8), (1, 0#8), (2, 0#8), (3, n)] 4 bs, cartLen := BitVec.ofNat 17 (4 + bs.length) }

/-- `s0` with the tree artifact bytes `bs` and TREE_LEN right. -/
def withTreeMem (s : State) (bs : List Byte) : State :=
  { s with treeMem := Memory.pokes [] 0 bs, treeLen := BitVec.ofNat 10 bs.length }

/-- The text "ab" counted, built (43 R175: a = "0", b = "1"), its codes generated, encoded and serialized. -/
def ab : State :=
  withTreeMem (withCart
    { s0 with
      treeValid := true, codesValid := true, freqTotal := 2#32, distinct := 2#8, root := 2#8, nodeCnt := 3#9
      freq := (zeroFreq.set 0x61 1#32).set 0x62 1#32
      nodes := setNode (setNode (setNode zeroNodes 0#8 (Node.mkLeaf 0x61#7 1#32)) 1#8 (Node.mkLeaf 0x62#7 1#32)) 2#8
        (Node.mkInternal 2#32 0#8 1#8)
      code := (zeroCode.set 0x61 { clen := 1#7, cbits := 0#128 }).set 0x62 { clen := 1#7, cbits := 1#128 } }
    2#8 [0x02#8]) [0x00#8, 0x01#8, 0x61#8, 0x01#8, 0x62#8]

/-- The tree of `ab`. -/
def abTree : Tree := .node (.leaf 0x61#7) (.leaf 0x62#7)

/-- The lone-leaf tree of 'a' (95 G-4), its code, and two 1-bits (95 V2). -/
def lone : State :=
  withCart { s0 with
    treeValid := true, codesValid := true, nodeCnt := 1#9
    nodes := setNode zeroNodes 0#8 (Node.mkLeaf 0x61#7 3#32)
    code := zeroCode.set 0x61 { clen := 1#7, cbits := 1#128 } } 2#8 [0x03#8]

/-- The counts of "Engl" (95 V1). -/
def engl : State :=
  { s0 with
    freq := (((zeroFreq.set 0x45 1#32).set 0x67 1#32).set 0x6C 1#32).set 0x6E 1#32, freqTotal := 4#32, distinct := 4#8 }

/-- The state an outcome answers. -/
def after (o : Host.Outcome State Fault Refusal) : State :=
  match o with
  | .next t => t
  | .fault _ => State.reset
  | .refused _ => State.reset

/-- Whether an outcome is a next state. -/
def isNext (o : Host.Outcome State Fault Refusal) : Bool :=
  match o with
  | .next _ => true
  | .fault _ => false
  | .refused _ => false

theorem next_of_isNext {o : Host.Outcome State Fault Refusal} (h : isNext o = true) : o = .next (after o) := by
  cases o <;> first | rfl | exact absurd h (by simp [isNext])

/-! ### One step of each command -/

/-- 47 R230. -/
theorem test_nop : (after (execNop { s0 with result := 5#32 })).result = 0#32 ∧ (after (execNop s0)).irqDone = true := by
  decide +kernel

/-- 95 K-6: SRST keeps CTRL and CART and clears CART_LEN. -/
theorem test_srst :
    (after (execSrst { ab with doneIe := true, errFirst := .noTree })).statusWord = 0x10#32 ∧
    (after (execSrst ab)).cart = ab.cart ∧ (after (execSrst ab)).cartLen = 0#17 := by decide +kernel

/-- 95 F-6, F-10. -/
theorem test_freqClr :
    (after (execFreqClr ab)).freqTotal = 0#32 ∧ (after (execFreqClr ab)).statusWord = 0x6#32 := by decide +kernel

/-- 95 F-1: 127 is in range. -/
theorem test_freqAdd_counts :
    (after (execFreqAdd 127 s0)).freqAt 127#7 = 1#32 ∧ (after (execFreqAdd 127 s0)).distinct = 1#8 ∧
    (after (execFreqAdd 127 s0)).result = 1#32 := by decide +kernel

/-- 95 F-2, F-7, F-9. -/
theorem test_freqAdd_corners :
    (after (execFreqAdd 128 s0)).dropCnt = 1#32 ∧
    (after (execFreqAdd 128 { s0 with dropCnt := 0xFFFFFFFF#32 })).dropCnt = 0xFFFFFFFF#32 ∧
    (after (execFreqAdd 1 { s0 with freqTotal := 0xFFFFFFFF#32, pending := .command 0x111#32 })).errWord =
      0x000A110A#32 := by decide +kernel

/-- 95 V1: the tree of "Engl". -/
theorem test_build_engl :
    (after (execBuild engl)).result = 6#32 ∧ (after (execBuild engl)).nodeCnt = 7#9 ∧
    (nodeAt (after (execBuild engl)).nodes 4#8).word0 = 0x00030000#32 ∧
    (nodeAt (after (execBuild engl)).nodes 5#8).word0 = 0x00010200#32 ∧
    (nodeAt (after (execBuild engl)).nodes 6#8).word0 = 0x00050400#32 := by decide +kernel

/-- 95 G-8. -/
theorem test_build_empty :
    (after (execBuild { s0 with pending := .command 0x20#32 })).errWord = 0x00022002#32 := by decide +kernel

/-- 43 R175, R176. -/
theorem test_codegen :
    (after (execCodegen { ab with code := zeroCode })).codeAt 0x62#7 = { clen := 1#7, cbits := 1#128 } ∧
    (after (execCodegen { ab with code := zeroCode })).codeAt 0x61#7 = { clen := 1#7, cbits := 0#128 } ∧
    (after (execCodegen { lone with code := zeroCode })).codeAt 0x61#7 = { clen := 1#7, cbits := 1#128 } := by
  decide +kernel

/-- 95 B-12, B-11. -/
theorem test_bbCreate :
    (after (execBbCreate 32 s0)).cart =
      [(0, 0x00#8), (1, 0x00#8), (2, 0x00#8), (3, 0x20#8), (4, 0#8), (5, 0#8), (6, 0#8), (7, 0#8)] ∧
    (after (execBbCreate 32 s0)).cartLen = 8#17 ∧ (after (execBbCreate 32 s0)).result = 4#32 ∧
    (after (execBbCreate 33 s0)).errLast = .capacity := by decide +kernel

/-- 95 B-2: bit 9 is bit 1 of payload byte 1. -/
theorem test_bbSet :
    (after (execBbSet 9 true (withCart s0 10#8 [0#8, 0#8]))).memRead .cart 5 = 0x02#8 ∧
    (after (execBbSet 10 true (withCart s0 10#8 [0#8, 0#8]))).errLast = .bounds := by decide +kernel

/-- 95 B-4, B-5. -/
theorem test_bbGet :
    (after (execBbGet 9 (withCart s0 10#8 [0#8, 2#8]))).result = 1#32 ∧
    (after (execBbGet 10 { withCart s0 10#8 [0#8, 2#8] with pending := .command 0x1432#32 })).errWord =
      0x00043204#32 := by decide +kernel

/-- 44 R185 by hand: 'b' = "1" appended at bit 2 of payload 0x02. -/
theorem test_encChar :
    (after (execEncChar 0x62 ab)).memRead .cart 4 = 0x06#8 ∧ (after (execEncChar 0x62 ab)).be32 = 3#32 ∧
    (after (execEncChar 0x62 ab)).result = 3#32 := by decide +kernel

/-- 95 E-3, E-4. -/
theorem test_encChar_corners :
    (after (execEncChar 0x78 ab)).errLast = .noCode ∧ (after (execEncChar 0xE9 ab)).result = 2#32 := by decide +kernel

/-- 45 R195 by hand: bits 0, 1 name a, b. -/
theorem test_decode_run :
    (after (execDecode ab)).out = [(0, 0x61#8), (1, 0x62#8)] ∧ (after (execDecode ab)).outLen = 2#17 := by decide +kernel

/-- 95 D-9. -/
theorem test_decode_badPath :
    (after (execDecode { withCart lone 3#8 [5#8] with pending := .command 0x39#32 })).errWord = 0x00093909#32 ∧
    (after (execDecode (withCart lone 3#8 [5#8]))).out = [(0, 0x61#8)] := by decide +kernel

/-- 46 R211 by hand; 95 T-7. -/
theorem test_ser :
    (after (execSer { ab with treeMem := [] })).treeMem = ab.treeMem ∧ (after (execSer lone)).treeLen = 2#10 := by
  decide +kernel

/-- 95 T-12, T-21. -/
theorem test_deser :
    (after (execDeser (withTreeMem s0 [0x01#8, 0x61#8, 0xFF#8, 0xFF#8]))).treeUsed = 2#10 ∧
    (after (execDeser (withTreeMem ab [0x00#8, 0x01#8, 0x61#8, 0x01#8, 0x61#8]))).result = 4#32 ∧
    (after (execDeser (withTreeMem ab [0x00#8, 0x01#8, 0x61#8, 0x01#8, 0x61#8]))).treeValid = false := by decide +kernel

/-! ### The bus and the step -/

/-- 95 K-7, K-9, K-11. -/
theorem test_bus :
    (s0.busRead 0x000#18).1 = .word 0x48554631#32 ∧ (s0.busRead 0x048#18).1 = .busErr ∧
    (s0.busRead 0x006#18).1 = .busErr ∧ (s0.busWrite 0x02000#18 0x44332211#32).2.memRead .tree 1 = 0x22#8 := by
  decide +kernel

/-- 95 K-12, K-13, K-15. -/
theorem test_bus_fields :
    (s0.busWrite 0x030#18 0xFFFFFFFF#32).2.treeLen = 0x3FF#10 ∧
    ((s0.busWrite 0x034#18 0xFFFFFFFF#32).2.busRead 0x034#18).1 = .word 0x0001FFFF#32 ∧
    ((s0.busWrite 0x010#18 0xFFFFFFFF#32).2.busRead 0x010#18).1 = .word 0x00000003#32 := by decide +kernel

/-- 95 P6, schedule A, operation 3: a data read while busy. -/
theorem test_busy_violation :
    (State.reset.busRead 0x018#18).1 = .word 0#32 ∧ (State.reset.busRead 0x018#18).2.errWord = 0x0000FF0B#32 := by
  decide +kernel

/-- The first step from reset is INIT; a word delivered by `withFetchWord` runs next. -/
theorem test_step_first :
    (after (step State.reset)).pending = .idle ∧
    (after (step (State.reset.withFetchWord 32 0x00004511))).freqAt 0x45#7 = 1#32 ∧
    (after (step (State.reset.withFetchWord 32 0x00000002))).errWord = 0x00010201#32 ∧
    decodeTableWord 32 0x00001331 = some (.bbSet 9 true) := by decide +kernel

/-! ### Witnesses: the invariants hold in `ab`, a state with counts, a tree, codes and artifacts -/

theorem ab_legal : ab.params.Legal := by decide

theorem ab_mem : MemInv ab := ⟨by decide, fun m => by cases m <;> decide +kernel⟩

theorem ab_out : OutInv ab := ⟨by decide +kernel, by decide +kernel⟩

theorem ab_counts : CountInv ab :=
  ⟨fun h => absurd h (by decide), fun _ => by decide +kernel, fun _ => by decide +kernel⟩

theorem ab_reads : readTree ab.nodes 128 ab.root = some abTree := by decide +kernel

theorem ab_ok : TreeOk ab.nodes ab.root ab.nodeCnt.toNat :=
  ⟨by decide, ⟨abTree, ab_reads, by decide⟩, by decide +kernel⟩

/-- Every slot of the arena but the three of the tree is zero. -/
theorem ab_nodes (i : Nat) (h : i < 256) (h3 : 3 ≤ i) : ab.nodes[i] = Node.zero := by
  have h0 : i ≠ 0 := by omega
  have h1 : i ≠ 1 := by omega
  have h2 : i ≠ 2 := by omega
  simp [ab, withTreeMem, withCart, setNode, zeroNodes, h0.symm, h1.symm, h2.symm]

theorem ab_tree : TreeInv ab := by
  refine ⟨fun _ => ab_ok, fun h => absurd h (by decide), fun h => absurd h (by decide), fun _ i h h3 => ab_nodes i h h3,
    fun i h => ?_⟩
  by_cases h3 : 3 ≤ i
  · rw [ab_nodes i h h3]
    decide
  · have h012 : i = 0 ∨ i = 1 ∨ i = 2 := by omega
    clear h3
    rcases h012 with rfl | rfl | rfl <;> revert h <;> decide +kernel

theorem ab_tree? : ab.tree? = some abTree := by decide +kernel

/-- The bits past CLEN are 0 where CBITS shifted right by CLEN is 0. -/
theorem pad_of_shift {c : CodeEntry} (h : c.cbits >>> c.clen.toNat = 0#128) (j : Nat) (hj : c.clen.toNat ≤ j) :
    c.cbits.getLsbD j = false := by
  have := congrArg (fun x => x.getLsbD (j - c.clen.toNat)) h
  simpa [BitVec.getLsbD_ushiftRight, Nat.add_sub_cancel' hj] using this

theorem ab_codes : CodeInv ab := by
  refine ⟨fun i h j hj => pad_of_shift ?_ j hj, fun _ => ⟨rfl, abTree, ab_tree?, by decide +kernel⟩⟩
  exact (by decide +kernel : ∀ i (h : i < 128), ab.code[i].cbits >>> ab.code[i].clen.toNat = 0#128) i h

theorem ab_err : ErrInv ab := ⟨by decide, by decide, by decide, by decide⟩

theorem ab_idle : IdleInv ab := ⟨rfl, by decide⟩

/-- `ab` with a command pending and the engine's turn next. -/
def abBusy (w : Word) : State := { ab with pending := .command w, sched := { queue := [0], draws := 0 } }

theorem wit_EncodeOfDecode : decode 0x00001331#32 = .ok (.bbSet 9 true) := by decide

theorem wit_IllegalWord : ∀ r ∈ opcodeRows, (0x00000132#32 : Word) &&& r.2 ≠ r.1 := by simp [opcodeRows]

/-- The two kinds of illegal word. -/
theorem wit_IllegalWord_kinds :
    (∀ r ∈ opcodeRows, (0x00000002#32 : Word).extractLsb' 0 8 ≠ r.1.extractLsb' 0 8) ∧
    ∃ r ∈ opcodeRows, (0x00000132#32 : Word).extractLsb' 0 8 = r.1.extractLsb' 0 8 := by
  simp [opcodeRows]

/-- The premise on CTRL of the SRST statement. -/
theorem wit_Srst : ab.doneIe = false ∧ ab.errIe = false := by decide

theorem wit_StepRunsPendingWord :
    (abBusy 0x20#32).engineTurn = true ∧ (abBusy 0x20#32).pending = .command 0x20#32 ∧
    decode 0x20#32 = .ok .build ∧ (abBusy 0x2#32).engineTurn = true ∧
    decode 0x2#32 = .error (.unlistedOpcode 2#8) ∧ ab.pending = .idle ∧ ({ ab with rstN := false } : State).rstN = false := by
  decide +kernel

/-- An illegal word pending, with no first error recorded. -/
theorem wit_IllegalWord_pending : (abBusy 0x2#32).pending = .command 0x2#32 ∧ (abBusy 0x2#32).errFirst = .noError := by
  decide

theorem wit_Init : State.reset.engineTurn = true ∧ State.reset.pending = .init := by decide +kernel

theorem wit_EngineMoves :
    (State.reset.rstN = true ∧ State.reset.pending ≠ .idle) ∧
    ∀ op ∈ State.reset.host.program.drop State.reset.host.index, op ≠ .rstLow := by decide +kernel

theorem wit_Legal_bounds :
    Params.Legal { cartBytes := 8, outBytes := 4 } ∧ Params.Legal { cartBytes := 65536, outBytes := 65536 } ∧
    Params.Legal Params.defaults := by decide

/-- The premises of the invariant statements: every invariant in a state whose step is BUILD. -/
theorem wit_StepKeeps :
    (MemInv (abBusy 0x20#32) ∧ OutInv (abBusy 0x20#32) ∧ CountInv (abBusy 0x20#32) ∧ ErrInv (abBusy 0x20#32) ∧
      IdleInv (abBusy 0x20#32)) ∧ step (abBusy 0x20#32) = .next (after (step (abBusy 0x20#32))) :=
  ⟨⟨⟨ab_mem.legal, fun m => by cases m <;> decide +kernel⟩, ⟨ab_out.syms, ab_out.len⟩,
    ⟨fun h => absurd h (by decide), fun _ => ab_counts.total (by decide), fun _ => ab_counts.distinct (by decide)⟩,
    ⟨ab_err.firstOp, ab_err.last, ab_err.detail, ab_err.zero⟩, ⟨ab_idle.hsize, ab_idle.index⟩⟩,
    next_of_isNext (by decide +kernel)⟩

theorem wit_StepKeepsTree : TreeInv (abBusy 0x20#32) ∧ CodeInv (abBusy 0x20#32) :=
  ⟨⟨fun _ => ab_ok, fun h => absurd h (by decide), fun h => absurd h (by decide),
    fun _ => ab_tree.unallocated (by decide), ab_tree.form⟩,
    ⟨ab_codes.pad, fun _ => ⟨rfl, abTree, ab_tree?, by decide +kernel⟩⟩⟩

theorem wit_EveryCommandCompletes : CountInv ab ∧ TreeInv ab ∧ CodeInv ab ∧ ab.pending ≠ .init ∧ ab.codesValid = true :=
  ⟨ab_counts, ab_tree, ab_codes, by decide, rfl⟩

theorem wit_CommandFrame : exec .ser ab = .next (after (exec .ser ab)) := next_of_isNext (by decide +kernel)

/-- The clauses on the validity flags and on a changed tree. -/
theorem wit_CommandFrame_clauses :
    (after (exec .codegen ab)).codesValid = true ∧ (after (exec .build engl)).treeValid = true ∧
    (after (exec .srst ab)).root ≠ ab.root ∧ (after (exec .build engl)).nodeCnt ≠ engl.nodeCnt := by decide +kernel

/-- The clauses of the completion statement on a first error: `BB_SET 2, 1` (0x531) is out of bounds, DECODE without a tree
fails, and an artifact cut short is CORRUPT_FORMAT. -/
theorem wit_CommandCompletion_first :
    ((abBusy 0x531#32).pending = .command 0x531#32 ∧ (abBusy 0x531#32).errFirst = .noError ∧
      (after (exec (.bbSet 2 true) (abBusy 0x531#32))).errLast = .bounds ∧
      (after (exec (.bbSet 2 true) (abBusy 0x531#32))).errFirstOp = 0x31#8) ∧
    (after (exec .deser { ab with treeLen := 4#10 })).errLast = .corruptFormat ∧
    (after (exec .nop ab)).errLast = .noError := by decide +kernel

/-- The clauses of the completion statement: a first error recorded before, none recorded before, SRST. -/
theorem wit_CommandCompletion :
    (exec .nop { ab with errFirst := .noTree } = .next (after (exec .nop { ab with errFirst := .noTree })) ∧
      Instr.nop ≠ .srst) ∧
    (exec (.bbSet 2 true) ab = .next (after (exec (.bbSet 2 true) ab)) ∧ ab.errFirst = .noError) ∧
    exec .srst ab = .next (after (exec .srst ab)) :=
  ⟨⟨next_of_isNext (by decide +kernel), by decide⟩, ⟨next_of_isNext (by decide +kernel), by decide⟩,
    next_of_isNext (by decide +kernel)⟩

theorem wit_FirstError :
    step { abBusy 0x2#32 with errFirst := .noTree } = .next (after (step { abBusy 0x2#32 with errFirst := .noTree })) ∧
    ErrCode.noTree ≠ ErrCode.noError := ⟨next_of_isNext (by decide +kernel), by decide⟩

theorem wit_ReservedWords :
    (0x00000100#32 : Word).extractLsb' 0 8 = 0x00#8 ∧ (0x00000100#32 : Word).extractLsb' 8 24 ≠ 0#24 ∧
    (0x80000001#32 : Word).extractLsb' 0 8 = 0x01#8 ∧ (0x80000001#32 : Word).extractLsb' 8 24 ≠ 0#24 ∧
    (0x00001010#32 : Word).extractLsb' 0 8 = 0x10#8 ∧ (0x00001010#32 : Word).extractLsb' 8 24 ≠ 0#24 := by decide

theorem wit_FreqAdd :
    128 ≤ 128 ∧ (127 < 128 ∧ ({ ab with freqTotal := 0xFFFFFFFF#32 } : State).freqTotal = 0xFFFFFFFF#32) ∧
    (127 < 128 ∧ ab.freqTotal ≠ 0xFFFFFFFF#32) := by decide +kernel

theorem wit_FreqTable : [0x61, 0xE9, 0x62].length < 2 ^ 32 := by decide

theorem wit_Build :
    s0.distinct = 0#8 ∧ CountInv ab ∧ ab.pending ≠ .init ∧ ab.distinct ≠ 0#8 ∧
    exec .build ab = .next (after (exec .build ab)) ∧ 0 < (countedSyms ab).length :=
  ⟨by decide, ab_counts, by decide, by decide, next_of_isNext (by decide +kernel), by decide +kernel⟩

/-- An internal slot below NODE_CNT after BUILD. -/
theorem wit_BuildInternal :
    (2#8 : Slot).toNat < (after (exec .build ab)).nodeCnt.toNat ∧
    (nodeAt (after (exec .build ab)).nodes 2#8).leaf = false := by decide +kernel

/-- `ab` with a stale HEAP. -/
def abStale : State := { ab with heap := Vector.replicate 128 7#8, codesValid := false }

theorem wit_BuildDependsOnCountsOnly :
    abStale.freq = ab.freq ∧ abStale.distinct ≠ 0#8 ∧ exec .build abStale = .next (after (exec .build abStale)) :=
  ⟨rfl, by decide, next_of_isNext (by decide +kernel)⟩

/-- A queue of the leaf in slot 0, to which the leaf in slot 1, of equal frequency, can be offered. -/
def queue1 : Builder := { nodes := ab.nodes, cnt := 2, heap := Vector.replicate 128 0#8, hsize := 1 }

theorem wit_Queue :
    queue1.hsize < 128 ∧ 0 < queue1.hsize ∧ HeapOrdered queue1 ∧
    nodeKey queue1.nodes 1#8 = nodeKey queue1.nodes (heapAt queue1.heap ((queue1.hsize - 1) / 2)) :=
  ⟨by decide, by decide, fun k h1 h2 => absurd h2 (by simp only [queue1]; omega), by decide +kernel⟩

/-- Internal slots one after another, in the tree of "Engl". -/
theorem wit_BuildInternals :
    (4#8 : Slot).toNat < (5#8 : Slot).toNat ∧ (5#8 : Slot).toNat < (after (execBuild engl)).nodeCnt.toNat ∧
    (nodeAt (after (execBuild engl)).nodes 4#8).leaf = false ∧ engl.distinct ≠ 0#8 := by decide +kernel

/-- The queue of "Engl" once every leaf is offered, and a queue of one entry. -/
theorem wit_BuildLoop :
    (2 ≤ engl.leavesOffered.hsize ∧ engl.leavesOffered.hsize ≤ 4) ∧ queue1.hsize = 1 ∧
    exec .build engl = .next (after (exec .build engl)) :=
  ⟨by decide +kernel, rfl, next_of_isNext (by decide +kernel)⟩

/-- 42 R166's example: of four equal leaves the first two polls are 0 and 3. -/
theorem test_poll_ties :
    engl.leavesOffered.poll.1 = 0#8 ∧ engl.leavesOffered.poll.2.poll.1 = 3#8 := by decide +kernel

/-- A heap of three entries with the slot numbers as keys, for the sift rules. -/
def heap3 : Vector Slot 128 := ((Vector.replicate 128 0#8).set 0 4#8).set 1 6#8 |>.set 2 6#8

/-- Each case of the sift rules: at the top, under an equal parent, under a greater one; past the children, an equal child,
a lesser one, with the two children tied and with only one. -/
theorem wit_Sift :
    (BitVec.toNat (heapAt heap3 ((1 - 1) / 2)) ≤ BitVec.toNat (4#8 : Slot) ∧
      BitVec.toNat (3#8 : Slot) < BitVec.toNat (heapAt heap3 ((1 - 1) / 2))) ∧
    (3 / 2 ≤ 1 ∧ 0 < 3 / 2) ∧
    (¬ (2 * 0 + 2 < 3 ∧ BitVec.toNat (heapAt heap3 (2 * 0 + 2)) < BitVec.toNat (heapAt heap3 (2 * 0 + 1))) ∧
      BitVec.toNat (6#8 : Slot) ≤ BitVec.toNat (heapAt heap3 1) ∧
      BitVec.toNat (heapAt heap3 1) < BitVec.toNat (7#8 : Slot)) ∧
    (2 ≤ engl.leavesOffered.hsize ∧ engl.leavesOffered.hsize ≤ 3 + 1) := by decide +kernel

theorem wit_NoTree : s0.treeValid = false := rfl

theorem wit_Codes : (0x61#7 : Sym) ≠ 0x62#7 ∧ (ab.codeAt 0x61#7).clen ≠ 0#7 ∧ (ab.codeAt 0x62#7).clen ≠ 0#7 := by
  decide +kernel

theorem wit_BbCreate : s0.params.Legal ∧ 32 ≤ 8 * (s0.params.cartBytes - 4) ∧ 8 * (s0.params.cartBytes - 4) < 33 := by
  decide +kernel

/-- `s0` with a header of 255 bits, more than CART holds. -/
def overlong : State := withCart s0 255#8 [0#8]

theorem wit_BbBounds :
    (1 < ab.be32.toNat ∧ 4 + 1 / 8 < ab.params.cartBytes) ∧ ab.be32.toNat ≤ 2 ∧
    (32 < overlong.be32.toNat ∧ overlong.params.cartBytes ≤ 4 + 32 / 8) ∧
    (31 < overlong.be32.toNat ∧ 4 + 31 / 8 < overlong.params.cartBytes) := by decide +kernel

theorem wit_EncCharFails :
    s0.codesValid = false ∧ ab.codesValid = true ∧ (ab.codeAt (BitVec.ofNat 7 0x63)).clen = 0#7 ∧
    ((withCart ab 32#8 [0#8, 0#8, 0#8, 0#8]).codesValid = true ∧
      ((withCart ab 32#8 [0#8, 0#8, 0#8, 0#8]).codeAt (BitVec.ofNat 7 0x61)).clen ≠ 0#7 ∧
      (withCart ab 32#8 [0#8, 0#8, 0#8, 0#8]).params.cartBytes <
        4 + ceil8 ((withCart ab 32#8 [0#8, 0#8, 0#8, 0#8]).be32.toNat +
          ((withCart ab 32#8 [0#8, 0#8, 0#8, 0#8]).codeAt (BitVec.ofNat 7 0x61)).clen.toNat)) := by decide +kernel

theorem wit_EncCharAppends :
    ab.params.Legal ∧ 0x61 < 128 ∧ ab.codesValid = true ∧ (ab.codeAt (BitVec.ofNat 7 0x61)).clen ≠ 0#7 ∧
    4 + ceil8 (ab.be32.toNat + (ab.codeAt (BitVec.ofNat 7 0x61)).clen.toNat) ≤ ab.params.cartBytes := by decide +kernel

theorem wit_EncodeText :
    (∀ y ∈ inRange [0x61, 0xE9, 0x62], (ab.codeAt y).clen ≠ 0#7) ∧
    ((inRange [0x61, 0xE9, 0x62]).flatMap (fun y => entryBits (ab.codeAt y))).length ≤
      8 * (ab.params.cartBytes - 4) := by decide +kernel

theorem lone_tree? : lone.tree? = some (.leaf 0x61#7) := by decide +kernel

theorem wit_SingleSymbol :
    lone.params.Legal ∧ CodeInv lone ∧ lone.codesValid = true ∧ lone.tree? = some (.leaf 0x61#7) ∧
    32 ≤ 8 * (lone.params.cartBytes - 4) := by
  refine ⟨by decide, ⟨fun i h j hj => pad_of_shift ?_ j hj, fun _ => ⟨rfl, _, lone_tree?, by decide +kernel⟩⟩, rfl,
    lone_tree?, by decide⟩
  exact (by decide +kernel : ∀ i (h : i < 128), lone.code[i].cbits >>> lone.code[i].clen.toNat = 0#128) i h

theorem wit_DecodeRejects :
    s0.treeValid = false ∧ ab.treeValid = true ∧
    min ({ ab with cartLen := 3#17 } : State).cartLen.toNat ab.params.cartBytes < 4 ∧
    (4 ≤ min ({ ab with cartLen := 4#17 } : State).cartLen.toNat ab.params.cartBytes ∧
      min ({ ab with cartLen := 4#17 } : State).cartLen.toNat ab.params.cartBytes <
        4 + ceil8 ({ ab with cartLen := 4#17 } : State).be32.toNat) := by decide +kernel

/-- `ab` with five bits in CART, one symbol more than OUT holds. -/
def ab5 : State := withCart ab 5#8 [0#8]

theorem wit_DecodeWalksTree :
    (4 + ceil8 ab.be32.toNat ≤ min ab.cartLen.toNat ab.params.cartBytes ∧
      (decodeBits abTree abTree (streamOf ab)).length ≤ ab.params.outBytes) ∧
    (ab5.tree? = some abTree ∧ 4 + ceil8 ab5.be32.toNat ≤ min ab5.cartLen.toNat ab5.params.cartBytes ∧
      ab5.params.outBytes < (decodeBits abTree abTree (streamOf ab5)).length) := by decide +kernel

theorem wit_DecodeLoneLeaf :
    (4 + ceil8 lone.be32.toNat ≤ min lone.cartLen.toNat lone.params.cartBytes ∧
      lone.be32.toNat ≤ lone.params.outBytes ∧ ∀ i, i < lone.be32.toNat → lone.getbit i = true) ∧
    (4 < (withCart lone 5#8 [0x0F#8]).be32.toNat ∧ 4 ≤ (withCart lone 5#8 [0x0F#8]).params.outBytes ∧
      (withCart lone 5#8 [0x0F#8]).getbit 4 = false ∧
      ∀ i, i < 4 → (withCart lone 5#8 [0x0F#8]).getbit i = true) ∧
    ((withCart lone 5#8 [0x1F#8]).params.outBytes < (withCart lone 5#8 [0x1F#8]).be32.toNat ∧
      ∀ i, i ≤ (withCart lone 5#8 [0x1F#8]).params.outBytes → (withCart lone 5#8 [0x1F#8]).getbit i = true) := by
  decide +kernel

theorem wit_Session :
    MemInv ab ∧ ab.errFirst = .noError ∧ inRange [0x61, 0xE9, 0x62] ≠ [] ∧
    (inRange [0x61, 0xE9, 0x62]).length ≤ ab.params.outBytes := ⟨ab_mem, by decide, by decide, by decide⟩

theorem wit_Ser : TreeInv ab ∧ ab.treeValid = true := ⟨ab_tree, rfl⟩

/-- The artifact of `abTree` (46 R210). -/
theorem wit_Artifact : IsArtifact [0x00#8, 0x01#8, 0x61#8, 0x01#8, 0x62#8] abTree :=
  IsArtifact.node [0x01#8, 0x61#8] [0x01#8, 0x62#8] _ _ (IsArtifact.leaf _ _ (by decide)) (IsArtifact.leaf _ _ (by decide))

theorem wit_Deser :
    abTree.symbols.Nodup ∧ abTree.size ≤ 255 ∧
    bytesFrom ab .tree 0 5 = [0x00#8, 0x01#8, 0x61#8, 0x01#8, 0x62#8] ∧ 5 ≤ min ab.treeLen.toNat 512 := by decide +kernel

/-- The artifact cut to four bytes (95 V5). -/
theorem wit_DeserTruncated :
    ({ ab with treeLen := 4#10 } : State).treeLen.toNat < 5 ∧
    bytesFrom ({ ab with treeLen := 4#10 } : State) .tree 0 4 =
      [0x00#8, 0x01#8, 0x61#8, 0x01#8, 0x62#8].take 4 := by decide +kernel

theorem wit_DeserDetails :
    0 = min s0.treeLen.toNat 512 ∧
    (1 = min (withTreeMem s0 [2#8]).treeLen.toNat 512 ∧ (withTreeMem s0 [2#8]).memRead .tree 0 = 2#8) ∧
    (1 = min (withTreeMem s0 [1#8]).treeLen.toNat 512 ∧ (withTreeMem s0 [1#8]).memRead .tree 0 = 1#8) ∧
    (2 = min (withTreeMem s0 [1#8, 128#8]).treeLen.toNat 512 ∧
      128 ≤ ((withTreeMem s0 [1#8, 128#8]).memRead .tree 1).toNat) ∧
    (5 = min (withTreeMem s0 [0#8, 1#8, 127#8, 1#8, 127#8]).treeLen.toNat 512 ∧
      ((withTreeMem s0 [0#8, 1#8, 127#8, 1#8, 127#8]).memRead .tree 2).toNat < 128 ∧
      (withTreeMem s0 [0#8, 1#8, 127#8, 1#8, 127#8]).memRead .tree 4 =
        (withTreeMem s0 [0#8, 1#8, 127#8, 1#8, 127#8]).memRead .tree 2) := by decide +kernel

/-- 256 internal markers (95 T-22). -/
def markers : State := { s0 with treeMem := (List.range 256).map (fun a => (a, 0#8)), treeLen := 256#10 }

theorem wit_DeserTooMany :
    256 ≤ min markers.treeLen.toNat 512 ∧ ∀ a, a < 256 → markers.memRead .tree a = 0#8 := by decide +kernel

/-- One pass over the bytes: an accepted artifact, and a bad marker, a bad symbol and a duplicate below the root (46 R213, by
hand). -/
theorem wit_DeserScan :
    deserScan (bytesFrom ab .tree 0 5) 1 0 [] 0 = .ok 5 ∧ deserScan [0#8, 1#8, 97#8, 2#8] 1 0 [] 0 = .error 2 ∧
    deserScan [0#8, 0#8, 1#8, 97#8, 1#8, 128#8] 1 0 [] 0 = .error 3 ∧
    deserScan [0#8, 0#8, 1#8, 97#8, 1#8, 98#8, 1#8, 97#8] 1 0 [] 0 = .error 4 ∧
    deserScan (List.replicate 255 0#8 ++ [1#8, 97#8]) 1 0 [] 0 = .error 5 := by decide +kernel

/-- 46 R213: the model's parse gives the same details below the root, and for a 256th node that is a leaf. -/
theorem test_deser_deep :
    (after (execDeser (withTreeMem s0 [0#8, 1#8, 97#8, 2#8]))).result = 2#32 ∧
    (after (execDeser (withTreeMem s0 [0#8, 0#8, 1#8, 97#8, 1#8, 128#8]))).result = 3#32 ∧
    (after (execDeser (withTreeMem s0 [0#8, 0#8, 1#8, 97#8, 1#8, 98#8, 1#8, 97#8]))).result = 4#32 ∧
    (after (execDeser { s0 with
      treeMem := (List.range 255).map (fun a => (a, 0#8)) ++ [(255, 1#8), (256, 97#8)], treeLen := 257#10 })).result =
      5#32 := by decide +kernel

theorem wit_BadOffset :
    (0x006#18 : Offset).toNat % 4 ≠ 0 ∧ ¬ Mapped ab.params (0x048#18 : Offset).toNat ∧
    ¬ Mapped ab.params (0x10008#18 : Offset).toNat := by decide

/-- The register and table statements: an idle state. -/
theorem wit_Idle : ab.pending = .idle ∧ ab.params.Legal := by decide

/-- The busy violation with and without a first error recorded before. -/
theorem wit_Busy_clauses :
    ({ State.reset with errFirst := .noTree } : State).errFirst ≠ .noError ∧ State.reset.errFirst = .noError := by decide

theorem wit_Busy :
    State.reset.params.Legal ∧ State.reset.pending ≠ .idle ∧ (0x10FFC#18 : Offset).toNat % 4 = 0 ∧
    Mapped State.reset.params (0x10FFC#18 : Offset).toNat ∧ (0x10FFC#18 : Offset).toNat ∉ ctlOffsets := by decide

theorem wit_ReadsPure :
    (Mapped ab.params (0x20000#18 : Offset).toNat ∧ ¬ Writable ab.params (0x20000#18 : Offset).toNat ∧
      ab.pending = .idle) ∧
    (Mapped State.reset.params (0x044#18 : Offset).toNat ∧ (0x044#18 : Offset).toNat ∈ ctlOffsets ∧
      ¬ Writable State.reset.params (0x044#18 : Offset).toNat) := by decide

theorem wit_ByteWindows :
    ab.params.Legal ∧ 4 * 127 < memSize ab.params .tree ∧ 4 * 1 < memSize ab.params .cart ∧ 4 * 0 < memSize ab.params .out ∧
    ab.pending = .idle := by decide

/-- The host operations out of reset, busy and idle; the pin statement in reset. -/
theorem wit_Host :
    ab.rstN = true ∧ ab.pending = .idle ∧ (abBusy 0x20#32).rstN = true ∧ (abBusy 0x20#32).pending ≠ .idle ∧
    ({ ab with rstN := false } : State).rstN = false := by decide

/-- `ab` with WAIT next in the host's program, idle, and BUSY with one host step to go. -/
def abWait : State := { ab with host := { ab.host with program := [.wait] } }

/-- The host's turn, idle and BUSY, and with the program ended. -/
theorem wit_HostStep :
    (abWait.engineTurn = false ∧ abWait.host.program[abWait.host.index]? = some .wait) ∧
    (({ abWait with pending := .command 0#32, sched := { queue := [1], draws := 0 } } : State).engineTurn = false) ∧
    (ab.engineTurn = false ∧ ab.host.program.length ≤ ab.host.index) := by decide +kernel

/-- 30 R127: the reads of five bytes unpack little-endian, and bytes past the fifth are dropped; a BUSERR leaves none. -/
theorem test_unpackRBytes :
    unpackRBytes 5 [.word 0x44332211#32, .word 0x00000055#32] = some [0x11#8, 0x22#8, 0x33#8, 0x44#8, 0x55#8] ∧
    unpackRBytes 5 [.word 0x44332211#32, .busErr] = none := by decide

/-- 95 P-table: `WBYTES` pads the last word with 0. -/
theorem test_opsWBytes :
    opsWBytes 0x02008#18 [0x6C#8, 0x01#8, 0x67#8] = [.write 0x02008#18 0x0067016C#32] := by decide

/-- A window's last bytes, with a padded last word. -/
theorem wit_RBytes :
    ab.params.Legal ∧ ab.rstN = true ∧ ab.pending = .idle ∧ 4 * 127 + [1#8, 2#8, 3#8].length ≤ memSize ab.params .tree ∧
    4 * 0 + [1#8, 2#8, 3#8, 4#8, 5#8].length ≤ memSize ab.params .cart := by decide

end Sys2Proof.Tests
end

section
/-! The cleared tables, and the invariants right after reset (10 R65). -/
namespace Sys2Proof.Machine

@[simp] theorem getElem_zeroNodes (i : Nat) (h : i < 256) : zeroNodes[i] = Node.zero := by simp [zeroNodes]

@[simp] theorem getElem_zeroCode (i : Nat) (h : i < 128) : zeroCode[i] = CodeEntry.zero := by simp [zeroCode]

@[simp] theorem resetWith_nodes (p : Params) : (State.resetWith p).nodes = zeroNodes := rfl

@[simp] theorem resetWith_code (p : Params) : (State.resetWith p).code = zeroCode := rfl

/-- The all-zero slot has the form of an internal slot (10 R53). -/
theorem Node.zero_form :
    if Node.zero.leaf then Node.zero.left = 0#8 ∧ Node.zero.right = 0#8 else Node.zero.sym = 0#7 := rfl

/-- The entry of a symbol with no code has no bit set (10 R54). -/
@[simp] theorem CodeEntry.getLsbD_zero_cbits (j : Nat) : CodeEntry.zero.cbits.getLsbD j = false := by
  simp [CodeEntry.zero]

end Sys2Proof.Machine

namespace Sys2Proof.Safety
open Sys2Proof.Machine

/-- No byte is listed, so only the parameters' own bounds matter (00 R9). -/
theorem memInv_resetWith {p : Params} (h : p.Legal) : MemInv (State.resetWith p) :=
  ⟨h, State.resetWith_mem_wf p⟩

theorem outInv_resetWith (p : Params) : OutInv (State.resetWith p) where
  syms _ hc := absurd hc List.not_mem_nil
  len := Nat.zero_le _

/-- INIT is pending, so only the two registers are promised (10 R65). -/
theorem countInv_resetWith (p : Params) : CountInv (State.resetWith p) where
  init _ := ⟨rfl, rfl⟩
  total h := absurd rfl h
  distinct h := absurd rfl h

/-- There is no tree, and the zero arena of log 7 has the form of 10 R53. -/
theorem treeInv_resetWith (p : Params) : TreeInv (State.resetWith p) where
  ok h := absurd h Bool.false_ne_true
  none _ := ⟨rfl, rfl⟩
  init _ := rfl
  unallocated h := absurd rfl h
  form i h := by
    simp only [resetWith_nodes, getElem_zeroNodes]
    exact Node.zero_form

/-- CODES_VALID is 0, and the zero table of log 7 has no bit set. -/
theorem codeInv_resetWith (p : Params) : CodeInv (State.resetWith p) where
  pad i h j _ := by simp
  valid h := absurd h Bool.false_ne_true

theorem errInv_resetWith (p : Params) : ErrInv (State.resetWith p) where
  firstOp _ := rfl
  last h := ErrCode.noConfusion h
  detail h := ErrCode.noConfusion h
  zero _ _ := rfl

/-- HSIZE is the zero of log 5, and the host's program is empty (log 9). -/
theorem idleInv_resetWith (p : Params) : IdleInv (State.resetWith p) where
  hsize := rfl
  index := Nat.zero_le _

/-- Settles O9: one lemma per invariant; only the memory invariant needs the parameters to be legal. -/
theorem invariantsAtReset : Obligations.InvariantsAtReset := fun p hp =>
  ⟨memInv_resetWith hp, outInv_resetWith p, countInv_resetWith p, treeInv_resetWith p, codeInv_resetWith p,
    errInv_resetWith p, idleInv_resetWith p⟩

end Sys2Proof.Safety
end

section
/-! What a command writes before it completes, and its two completions (60 R244, R245), said once for every command. -/
namespace Sys2Proof.Machine

/-- The error codes and details with which a command can fail (60 R240, R241). -/
structure Reports (e : ErrCode) (d : Word) : Prop where
  error : e ≠ .noError
  notBusy : e ≠ .busyViolation
  detail : e = .corruptFormat → 1 ≤ d.toNat ∧ d.toNat ≤ 7
  zero : e ≠ .corruptFormat → d = 0#32

/-- The completion of a command whose writes left `u`. -/
inductive Ends (u : State) : State → Prop where
  | done (r : Word) : Ends u (u.done r)
  | raise {e : ErrCode} {d : Word} (h : Reports e d) : Ends u (u.raise e d)

/-- What a command may have written when it completes: its whole effect but for the completion state. -/
inductive Effect : Instr → State → State → Prop where
  | nothing (i : Instr) (s : State) : Effect i s s
  | softReset (s : State) : Effect .srst s s.softReset
  | clearCounts (s : State) :
      Effect .freqClr s { s with freq := zeroFreq, freqTotal := 0#32, dropCnt := 0#32, distinct := 0#8 }
  | dropChar (c : Nat) (s : State) : Effect (.freqAdd c) s s.dropChar
  | countSym (c : Nat) (s : State) (y : Sym) (h : s.freqTotal ≠ 0xFFFFFFFF#32) : Effect (.freqAdd c) s (s.countSym y)
  | installTree (s : State) (root : Slot) (b : Builder)
      (h : buildLoop s.leavesOffered.hsize s.leavesOffered = some (root, b)) : Effect .build s (s.installTree root b)
  | installCodes (s : State) (t : Tree) (hv : s.treeValid = true) (ht : s.tree? = some t) :
      Effect .codegen s { s with code := t.codeTable, codesValid := true }
  | createBuffer (n : Nat) (s : State) (x : Memory) (k : BitVec 17) (h : fitsCart s.params n = true)
      (hx : s.createBuffer n = { s with cart := x, cartLen := k }) :
      Effect (.bbCreate n) s { s with cart := x, cartLen := k }
  | setbit (i : Nat) (b : Bool) (s : State) (x : Memory) (h : s.bitInBounds i = true)
      (hx : s.setbit i b = { s with cart := x }) : Effect (.bbSet i b) s { s with cart := x }
  | appendCode (c : Nat) (s : State) (e : CodeEntry) (x : Memory) (k : BitVec 17)
      (h : fitsCart s.params (s.be32.toNat + e.clen.toNat) = true)
      (hx : s.appendCode e = { s with cart := x, cartLen := k }) :
      Effect (.encChar c) s { s with cart := x, cartLen := k }
  | noText (s : State) : Effect .decode s { s with outLen := 0#17 }
  | partText (s : State) (out : Memory) (e : ErrCode)
      (h : decodeLoop s s.be32.toNat 0 s.root 0 s.out = (out, .error e)) :
      Effect .decode s { s with out := out, outLen := 0#17 }
  | text (s : State) (out : Memory) (k : Nat) (h : decodeLoop s s.be32.toNat 0 s.root 0 s.out = (out, .ok k)) :
      Effect .decode s { s with out := out, outLen := BitVec.ofNat 17 k }
  | artifact (s : State) (t : Tree) (ht : s.tree? = some t) :
      Effect .ser s { s with treeMem := s.treeMem.pokes 0 t.serialize, treeLen := BitVec.ofNat 10 t.serialize.length }
  | dropTree (s : State) : Effect .deser s s.dropTree
  | parsedTree (s : State) (i : Slot) (q : ParseState) (h : s.parseTree = .ok (i, q)) :
      Effect .deser s { s with
        nodes := q.nodes, root := 0#8, nodeCnt := BitVec.ofNat 9 q.cnt, treeUsed := BitVec.ofNat 10 q.p
        treeValid := true, codesValid := false }

/-- A failure without a detail. -/
theorem Reports.plain {e : ErrCode} (h0 : e ≠ .noError) (hb : e ≠ .busyViolation) (hc : e ≠ .corruptFormat) :
    Reports e 0#32 :=
  ⟨h0, hb, fun h => absurd h hc, fun _ => rfl⟩

/-- A failure with one of the details of 60 R241. -/
theorem Reports.corrupt (d : CorruptDetail) : Reports .corruptFormat d.word :=
  ⟨nofun, nofun, fun _ => by cases d <;> decide, fun h => absurd rfl h⟩

/-- One bit of DECODE's walk (45 R195): the bit has no edge, OUT is full, a symbol is emitted, or the walk goes down. -/
theorem decodeLoop_succ (s : State) (left i : Nat) (pos : Slot) (k : Nat) (out : Memory) :
    decodeLoop s (left + 1) i pos k out = (out, .error .badPath) ∨
    decodeLoop s (left + 1) i pos k out = (out, .error .capacity) ∨
    (∃ (y : Sym) (pos' : Slot), k ≠ s.params.outBytes ∧
      decodeLoop s (left + 1) i pos k out = decodeLoop s left (i + 1) pos' (k + 1) (out.poke k (y.setWidth 8))) ∨
    (∃ pos', decodeLoop s (left + 1) i pos k out = decodeLoop s left (i + 1) pos' k out) := by
  rw [decodeLoop]
  simp only [emitSym]
  generalize (if s.getbit i then (nodeAt s.nodes pos).right else (nodeAt s.nodes pos).left) = next
  by_cases hk : k = s.params.outBytes
  · rw [if_pos hk]
    split
    · split
      · exact .inr (.inl rfl)
      · exact .inl rfl
    · split
      · exact .inr (.inl rfl)
      · exact .inr (.inr (.inr ⟨_, rfl⟩))
  · rw [if_neg hk]
    split
    · split
      · exact .inr (.inr (.inl ⟨_, _, hk, rfl⟩))
      · exact .inl rfl
    · split
      · exact .inr (.inr (.inl ⟨_, _, hk, rfl⟩))
      · exact .inr (.inr (.inr ⟨_, rfl⟩))

/-- What every emission keeps holds when DECODE's walk is over, and the walk meets no other error than CAPACITY and BAD_PATH
(45 R195). -/
theorem decodeLoop_keeps {s : State} {P : Nat → Memory → Prop}
    (emit : ∀ k out (y : Sym), k ≠ s.params.outBytes → P k out → P (k + 1) (out.poke k (y.setWidth 8)))
    {left i k : Nat} {pos : Slot} {out out' : Memory} {r : Except ErrCode Nat} (hP : P k out)
    (h : decodeLoop s left i pos k out = (out', r)) :
    ∃ k', P k' out' ∧ (r = .ok k' ∨ r = .error .capacity ∨ r = .error .badPath) := by
  induction left generalizing i k pos out with
  | zero =>
    obtain ⟨rfl, rfl⟩ := Prod.mk.inj h
    exact ⟨k, hP, .inl rfl⟩
  | succ left ih =>
    rcases decodeLoop_succ s left i pos k out with e | e | ⟨y, pos', hk, e⟩ | ⟨pos', e⟩ <;> rw [e] at h
    · obtain ⟨rfl, rfl⟩ := Prod.mk.inj h
      exact ⟨k, hP, .inr (.inr rfl)⟩
    · obtain ⟨rfl, rfl⟩ := Prod.mk.inj h
      exact ⟨k, hP, .inr (.inl rfl)⟩
    · exact ih (emit k out y hk hP) h
    · exact ih hP h

/-- The walk of DECODE meets no other error than CAPACITY and BAD_PATH, and neither carries a detail (45 R195). -/
theorem Reports.walk {s : State} {left i k : Nat} {pos : Slot} {out out' : Memory} {e : ErrCode}
    (h : decodeLoop s left i pos k out = (out', .error e)) : Reports e 0#32 := by
  obtain ⟨k', -, he | he | he⟩ := decodeLoop_keeps (P := fun _ _ => True) (fun _ _ _ _ _ => trivial) trivial h
  · cases he
  · cases he; exact .plain nofun nofun nofun
  · cases he; exact .plain nofun nofun nofun

/-! ### One inversion lemma per command -/

/-- Creating a buffer writes CART and CART_LEN alone (40 R143). -/
theorem State.createBuffer_eq (s : State) (n : Nat) :
    ∃ x k, s.createBuffer n = { s with cart := x, cartLen := k } :=
  ⟨_, _, rfl⟩

/-- Appending a code writes CART and CART_LEN alone (44 R185). -/
theorem State.appendCode_eq (s : State) (e : CodeEntry) :
    ∃ x k, s.appendCode e = { s with cart := x, cartLen := k } := by
  obtain ⟨x, hx⟩ := s.setbits_eq s.be32.toNat e.cbits.getLsbD e.clen.toNat 0
  exact ⟨_, _, by rw [State.appendCode, hx]; rfl⟩

theorem execFreqAdd_cases {c : Nat} {s t : State} (h : execFreqAdd c s = .next t) :
    ∃ u, Effect (.freqAdd c) s u ∧ Ends u t := by
  unfold execFreqAdd at h
  split at h
  · cases h; exact ⟨_, .dropChar c s, .done _⟩
  · split at h
    · cases h; exact ⟨_, .nothing _ s, .raise (.plain nofun nofun nofun)⟩
    · rename_i y _ hf
      cases h; exact ⟨_, .countSym c s y hf, .done _⟩

theorem execBuild_cases {s t : State} (h : execBuild s = .next t) : ∃ u, Effect .build s u ∧ Ends u t := by
  unfold execBuild at h
  split at h
  · cases h; exact ⟨_, .nothing _ s, .raise (.plain nofun nofun nofun)⟩
  · split at h
    · cases h
    · rename_i root b hb
      cases h; exact ⟨_, .installTree s root b hb, .done _⟩

theorem execCodegen_cases {s t : State} (h : execCodegen s = .next t) : ∃ u, Effect .codegen s u ∧ Ends u t := by
  unfold execCodegen at h
  split at h
  · split at h
    · cases h
    · rename_i hv _ tr ht
      cases h; exact ⟨_, .installCodes s tr hv ht, .done _⟩
  · cases h; exact ⟨_, .nothing _ s, .raise (.plain nofun nofun nofun)⟩

theorem execBbCreate_cases {n : Nat} {s t : State} (h : execBbCreate n s = .next t) :
    ∃ u, Effect (.bbCreate n) s u ∧ Ends u t := by
  unfold execBbCreate at h
  split at h
  · rename_i hf
    obtain ⟨x, k, hx⟩ := s.createBuffer_eq n
    rw [hx] at h
    cases h
    exact ⟨_, .createBuffer n s x k hf hx, .done _⟩
  · cases h; exact ⟨_, .nothing _ s, .raise (.plain nofun nofun nofun)⟩

theorem execBbSet_cases {i : Nat} {b : Bool} {s t : State} (h : execBbSet i b s = .next t) :
    ∃ u, Effect (.bbSet i b) s u ∧ Ends u t := by
  obtain rfl := Host.Outcome.next.inj h
  split
  · rename_i hi; exact ⟨_, .setbit i b s _ hi rfl, .done _⟩
  · exact ⟨_, .nothing _ s, .raise (.plain nofun nofun nofun)⟩

theorem execBbGet_cases {i : Nat} {s t : State} (h : execBbGet i s = .next t) :
    ∃ u, Effect (.bbGet i) s u ∧ Ends u t := by
  obtain rfl := Host.Outcome.next.inj h
  refine ⟨s, .nothing _ s, ?_⟩
  split
  · exact .done _
  · exact .raise (.plain nofun nofun nofun)

theorem execEncChar_cases {c : Nat} {s t : State} (h : execEncChar c s = .next t) :
    ∃ u, Effect (.encChar c) s u ∧ Ends u t := by
  unfold execEncChar at h
  split at h
  · cases h; exact ⟨_, .nothing _ s, .done _⟩
  · obtain rfl := Host.Outcome.next.inj h
    split
    · exact ⟨_, .nothing _ s, .raise (.plain nofun nofun nofun)⟩
    · split
      · exact ⟨_, .nothing _ s, .raise (.plain nofun nofun nofun)⟩
      · split
        · rename_i y _ _ _ hf
          obtain ⟨x, k, hx⟩ := s.appendCode_eq (s.codeAt y)
          exact ⟨_, .appendCode c s _ x k hf hx, hx ▸ .done _⟩
        · exact ⟨_, .nothing _ s, .raise (.plain nofun nofun nofun)⟩

theorem execDecode_cases {s t : State} (h : execDecode s = .next t) : ∃ u, Effect .decode s u ∧ Ends u t := by
  obtain rfl := Host.Outcome.next.inj h
  split
  · exact ⟨_, .noText s, .raise (.plain nofun nofun nofun)⟩
  · split
    · exact ⟨_, .noText s, .raise (.corrupt _)⟩
    · split
      · exact ⟨_, .noText s, .raise (.corrupt _)⟩
      · match hw : decodeLoop s s.be32.toNat 0 s.root 0 s.out with
        | (out, .ok k) => exact ⟨_, .text s out k hw, .done _⟩
        | (out, .error e) => exact ⟨_, .partText s out e hw, .raise (.walk hw)⟩

theorem execSer_cases {s t : State} (h : execSer s = .next t) : ∃ u, Effect .ser s u ∧ Ends u t := by
  unfold execSer at h
  split at h
  · split at h
    · cases h
    · rename_i tr ht
      cases h; exact ⟨_, .artifact s tr ht, .done _⟩
  · cases h; exact ⟨_, .nothing _ s, .raise (.plain nofun nofun nofun)⟩

theorem execDeser_cases {s t : State} (h : execDeser s = .next t) : ∃ u, Effect .deser s u ∧ Ends u t := by
  obtain rfl := Host.Outcome.next.inj h
  split
  · exact ⟨_, .dropTree s, .raise (.corrupt _)⟩
  · rename_i i q hq
    exact ⟨_, .parsedTree s i q hq, .done _⟩

theorem exec_srst (s : State) : exec .srst s = .next (s.softReset.done 0#32) := rfl

/-- Everything a command that answers a next state can do. -/
theorem exec_cases {i : Instr} {s t : State} (h : exec i s = .next t) : ∃ u, Effect i s u ∧ Ends u t := by
  cases i with
  | nop => cases h; exact ⟨_, .nothing _ s, .done _⟩
  | srst => cases h; exact ⟨_, .softReset s, .done _⟩
  | freqClr => cases h; exact ⟨_, .clearCounts s, .done _⟩
  | freqAdd c => exact execFreqAdd_cases h
  | build => exact execBuild_cases h
  | codegen => exact execCodegen_cases h
  | bbCreate n => exact execBbCreate_cases h
  | bbSet k b => exact execBbSet_cases h
  | bbGet k => exact execBbGet_cases h
  | encChar c => exact execEncChar_cases h
  | decode => exact execDecode_cases h
  | ser => exact execSer_cases h
  | deser => exact execDeser_cases h

/-! ### What every effect leaves -/

theorem Effect.pending {i : Instr} {s u : State} (h : Effect i s u) : u.pending = s.pending := by
  cases h <;> rfl

/-- No command but SRST writes the first error before it completes (47 R231). -/
theorem Effect.firstError {i : Instr} {s u : State} (h : Effect i s u) (hi : i ≠ .srst) :
    u.errFirst = s.errFirst ∧ u.errFirstOp = s.errFirstOp := by
  cases h with
  | softReset => exact absurd rfl hi
  | _ => exact ⟨rfl, rfl⟩

theorem State.memRead_congr {s t : State} {m : ByteMem} (hm : t.mem m = s.mem m) (he : t.epoch = s.epoch) (a : Nat) :
    t.memRead m a = s.memRead m a := by
  rw [State.memRead, hm, he, State.memRead]

end Sys2Proof.Machine

namespace Sys2Proof.Safety
open Sys2Proof.Machine

/-- A byte memory that the command's rule does not name keeps its cells. -/
theorem effect_mem {i : Instr} {s u : State} {m : ByteMem} (h : Effect i s u) (hm : .bytes m ∉ mayWrite i) :
    u.mem m = s.mem m := by
  cases h with
  | nothing => rfl
  | _ => cases m <;> simp_all [mayWrite, State.mem, State.softReset, State.dropChar, State.countSym, State.installTree,
      State.dropTree]

/-- A command writes only the pieces its rule names (60 R246). -/
theorem effect_frame {i : Instr} {s u : State} (h : Effect i s u) : KeepsAllBut (mayWrite i) s u := by
  intro p hp
  cases p with
  | bytes m => exact State.memRead_congr (effect_mem h hp) (by cases h <;> rfl)
  | _ =>
    cases h with
    | nothing => exact keeps_refl _ _ _ hp
    | _ => simp_all [mayWrite, Piece.same, State.softReset, State.dropChar, State.countSym, State.installTree,
        State.dropTree]

end Sys2Proof.Safety
end

section
/-! What one step does to the block, said once, and invariants as facts that each part of a step keeps. -/
namespace Sys2Proof.Machine

/-- The state with another environment: schedule, pin and host agent. -/
def State.withEnv (s : State) (q : Schedule) (r : Bool) (h : HostAgent) : State :=
  { s with sched := q, rstN := r, host := h }

/-- What a write to a mapped location can do (20 R83, 10 R36 to R39, R46, R47, R66). -/
inductive Written (s : State) (d : Word) : Loc → State → Prop where
  | ignored (l : Loc) : Written s d l s
  | command : Written s d (.reg .cmd) { s with pending := .command d }
  | acknowledge : Written s d (.reg .err) s.clearFirstError
  | enables : Written s d (.reg .ctrl) { s with doneIe := d.getLsbD 0, errIe := d.getLsbD 1 }
  | done : Written s d (.reg .irqStat) { s with irqDone := s.irqDone && !d.getLsbD 0 }
  | treeLen : Written s d (.reg .treeLen) { s with treeLen := d.setWidth 10 }
  | cartLen : Written s d (.reg .cartLen) { s with cartLen := d.setWidth 17 }
  | treeBytes (a : Nat) (x : Memory) (hx : s.writeBytes .tree a d = { s with treeMem := x }) :
      Written s d (.bytes .tree a) { s with treeMem := x }
  | cartBytes (a : Nat) (x : Memory) (hx : s.writeBytes .cart a d = { s with cart := x }) :
      Written s d (.bytes .cart a) { s with cart := x }

theorem State.writeLoc_written (s : State) (d : Word) (l : Loc) : Written s d l (s.writeLoc d l) := by
  match l with
  | .reg r =>
    cases r with
    | cmd => exact .command
    | err => exact .acknowledge
    | ctrl => exact .enables
    | irqStat => exact .done
    | treeLen => exact .treeLen
    | cartLen => exact .cartLen
    | _ => exact .ignored _
  | .bytes .tree a => exact .treeBytes a _ rfl
  | .bytes .cart a => exact .cartBytes a _ rfl
  | .bytes .out _ | .freq _ | .node _ _ | .code _ _ => exact .ignored _

/-- What one step does to the block: the engine's action, a host access, or the edge of the pin (10 R30, 20 R91). -/
inductive Action (s : State) : State → Prop where
  | stay : Action s s
  | init (h : s.pending = .init) : Action s s.initAction
  | command {w : Word} {i : Instr} {t : State} (h : s.pending = .command w) (ht : exec i s = .next t) : Action s t
  | illegal {w : Word} (h : s.pending = .command w) : Action s (s.raise .illegalCmd 0#32)
  | violation : Action s s.recordBusyViolation
  | write {a : Offset} {l : Loc} {d : Word} {u : State} (ht : s.target a = some l) (hv : s.violates l = false)
      (hw : Written s d l u) : Action s u
  | release : Action s s.release

theorem State.busRead_action (s : State) (a : Offset) : Action s (s.busRead a).2 := by
  rcases s.busRead_state a with e | ⟨-, e⟩ <;> rw [e]
  · exact .stay
  · exact .violation

theorem State.busWrite_action (s : State) (a : Offset) (d : Word) : Action s (s.busWrite a d).2 := by
  rcases s.busWrite_state a d with e | ⟨-, e⟩ | ⟨l, ht, hv, e⟩ <;> rw [e]
  · exact .stay
  · exact .violation
  · exact .write ht hv (s.writeLoc_written d l)

/-- A host operation is one action on the block, and moves the pin and the host agent. -/
theorem hostOp_action {s t : State} {op : HostOp} (h : hostOp s op = .next t) :
    ∃ u, Action s u ∧ t = u.withEnv u.sched t.rstN t.host := by
  rcases hostOp_cases h with ⟨a, d, -, -, rfl⟩ | ⟨a, -, -, rfl⟩ | ⟨-, -, rfl⟩ | ⟨-, rfl⟩ | ⟨-, -, rfl⟩ | ⟨-, -, rfl⟩
  · exact ⟨_, s.busWrite_action a d, rfl⟩
  · exact ⟨_, s.busRead_action a, rfl⟩
  · refine ⟨_, s.busRead_action statusOffset, ?_⟩
    unfold State.hostWait
    simp only
    split <;> rfl
  · exact ⟨_, .stay, rfl⟩
  · exact ⟨_, .stay, rfl⟩
  · exact ⟨_, .release, rfl⟩

/-- A step takes the schedule on, performs one action on the block, and moves the pin and the host agent. -/
theorem step_action {s t : State} (h : step s = .next t) :
    ∃ q u, Action (s.withEnv q s.rstN s.host) u ∧ t = u.withEnv u.sched t.rstN t.host := by
  rcases step_cases h with ⟨-, hp, rfl⟩ | ⟨w, i, -, hp, -, he⟩ | ⟨w, e, -, hp, -, rfl⟩ | ⟨-, -, rfl⟩ | ⟨op, -, -, ho⟩
  · exact ⟨s.sched.pop, _, .init hp, rfl⟩
  · exact ⟨s.sched.pop, t, .command hp he, rfl⟩
  · exact ⟨s.sched.pop, _, .illegal hp, rfl⟩
  · exact ⟨t.sched, t, .stay, rfl⟩
  · split at ho
    · exact ⟨s.sched.tick, hostOp_action ho⟩
    · exact ⟨s.sched, hostOp_action ho⟩

/-- `P` holds after a step if it held before it: one goal for each part of a step. -/
structure KeptByStep (P : State → Prop) : Prop where
  env : ∀ {s} (q r h), P s → P (s.withEnv q r h)
  init : ∀ {s}, s.pending = .init → P s → P s.initAction
  effect : ∀ {i s u}, s.pending ≠ .init → P s → Effect i s u → P u
  done : ∀ {s} r, s.pending ≠ .init → P s → P (s.done r)
  raise : ∀ {s e d}, s.pending ≠ .init → Reports e d → P s → P (s.raise e d)
  violation : ∀ {s}, P s → P s.recordBusyViolation
  write : ∀ {s a l d u}, s.target a = some l → s.violates l = false → P s → Written s d l u → P u
  release : ∀ {s}, P s → P s.release

theorem KeptByStep.ends {P : State → Prop} (k : KeptByStep P) {u t : State} (hp : u.pending ≠ .init) (hu : P u)
    (he : Ends u t) : P t := by
  cases he with
  | done r => exact k.done r hp hu
  | raise hr => exact k.raise hp hr hu

theorem KeptByStep.exec {P : State → Prop} (k : KeptByStep P) {i : Instr} {s t : State} (hp : s.pending ≠ .init)
    (hs : P s) (h : exec i s = .next t) : P t := by
  obtain ⟨u, he, ht⟩ := exec_cases h
  exact k.ends (by rwa [he.pending]) (k.effect hp hs he) ht

theorem KeptByStep.action {P : State → Prop} (k : KeptByStep P) {s u : State} (hs : P s) (h : Action s u) : P u := by
  cases h with
  | stay => exact hs
  | init h => exact k.init h hs
  | command h ht => exact k.exec (by simp [h]) hs ht
  | illegal h => exact k.raise (by simp [h]) (.plain nofun nofun nofun) hs
  | violation => exact k.violation hs
  | write ht hv hw => exact k.write ht hv hs hw
  | release => exact k.release hs

theorem KeptByStep.step {P : State → Prop} (k : KeptByStep P) {s t : State} (hs : P s) (h : step s = .next t) : P t := by
  obtain ⟨q, u, ha, ht⟩ := step_action h
  rw [ht]
  exact k.env _ _ _ (k.action (k.env _ _ _ hs) ha)

end Sys2Proof.Machine
end

section
/-! The frame and the completion of every command, and the first error over every step. -/
namespace Sys2Proof.Safety
open Sys2Proof.Machine

theorem ends_frame {ps : List Piece} {s u t : State} (k : KeepsAllBut ps s u) (h : Ends u t) : KeepsAllBut ps s t := by
  cases h with
  | done r => exact keeps_done r k
  | raise _ => exact keeps_raise _ _ k

/-- The frame of every command. -/
theorem exec_frame {i : Instr} {s t : State} (h : exec i s = .next t) : KeepsAllBut (mayWrite i) s t := by
  obtain ⟨u, he, ht⟩ := exec_cases h
  exact ends_frame (effect_frame he) ht

theorem ends_tree {u t : State} (h : Ends u t) :
    t.nodes = u.nodes ∧ t.root = u.root ∧ t.nodeCnt = u.nodeCnt ∧ t.treeValid = u.treeValid ∧
      t.codesValid = u.codesValid := by
  cases h <;> exact ⟨rfl, rfl, rfl, rfl, rfl⟩

/-- Only CODEGEN sets CODES_VALID (10 R63). -/
theorem effect_codesValid {i : Instr} {s u : State} (h : Effect i s u) (hv : u.codesValid = true) :
    i = .codegen ∨ s.codesValid = true := by
  cases h with
  | installCodes => exact .inl rfl
  | softReset | installTree | dropTree | parsedTree => exact absurd hv Bool.false_ne_true
  | _ => exact .inr hv

/-- Only BUILD and DESER set TREE_VALID (10 R62). -/
theorem effect_treeValid {i : Instr} {s u : State} (h : Effect i s u) (hv : u.treeValid = true) :
    i = .build ∨ i = .deser ∨ s.treeValid = true := by
  cases h with
  | installTree => exact .inl rfl
  | parsedTree | dropTree => exact .inr (.inl rfl)
  | softReset => exact absurd hv Bool.false_ne_true
  | _ => exact .inr (.inr hv)

/-- A command that rewrites the tree clears CODES_VALID (10 R63); any other leaves the tree. -/
theorem effect_rewritesTree {i : Instr} {s u : State} (h : Effect i s u) :
    (u.nodes = s.nodes ∧ u.root = s.root ∧ u.nodeCnt = s.nodeCnt) ∨
      ((i = .build ∨ i = .deser ∨ i = .srst) ∧ u.codesValid = false) := by
  cases h with
  | installTree => exact .inr ⟨.inl rfl, rfl⟩
  | parsedTree | dropTree => exact .inr ⟨.inr (.inl rfl), rfl⟩
  | softReset => exact .inr ⟨.inr (.inr rfl), rfl⟩
  | _ => exact .inl ⟨rfl, rfl, rfl⟩

/-- Settles O17: the frame of each effect, the writers of the two flags, and both completions, which write neither. -/
theorem commandFrame : Obligations.CommandFrame := by
  intro i s t h
  obtain ⟨u, he, ht⟩ := exec_cases h
  obtain ⟨hn, hr, hc, htv, hcv⟩ := ends_tree ht
  refine ⟨exec_frame h, fun hv => effect_codesValid he (hcv ▸ hv), fun hv => effect_treeValid he (htv ▸ hv), ?_⟩
  rw [hn, hr, hc, hcv]
  intro hne
  rcases effect_rewritesTree he with ⟨e1, e2, e3⟩ | h
  · simp [e1, e2, e3] at hne
  · exact h

/-- A completed command has set DONE and cleared BUSY, and its last code and RESULT are those of 60 R241, R244 and R245. -/
theorem ends_codes {u t : State} (h : Ends u t) :
    t.irqDone = true ∧ t.pending = .idle ∧ t.errLast ≠ .busyViolation ∧
    (t.errLast ≠ .noError → t.errLast ≠ .corruptFormat → t.result = 0#32) ∧
    (t.errLast = .corruptFormat → 1 ≤ t.result.toNat ∧ t.result.toNat ≤ 7) := by
  cases h with
  | done r => exact ⟨rfl, rfl, nofun, fun h => absurd rfl h, nofun⟩
  | raise h => exact ⟨rfl, rfl, h.notBusy, fun _ => h.zero, h.detail⟩

/-- How a completion leaves the first error (60 R244, R245, R251). -/
theorem ends_firstError {u t : State} (h : Ends u t) :
    (u.errFirst ≠ .noError → t.errFirst = u.errFirst ∧ t.errFirstOp = u.errFirstOp) ∧
    (u.errFirst = .noError → t.errFirst = t.errLast) ∧
    (t.errLast = .noError → t.errFirst = u.errFirst ∧ t.errFirstOp = u.errFirstOp) ∧
    (u.errFirst = .noError → t.errLast ≠ .noError → t.errFirstOp = u.pendingOp) := by
  cases h with
  | done r => exact ⟨fun _ => ⟨rfl, rfl⟩, id, fun _ => ⟨rfl, rfl⟩, fun _ h => absurd rfl h⟩
  | raise h =>
    refine ⟨fun h1 => ?_, fun h1 => ?_, fun h2 => absurd h2 h.error, fun h1 _ => ?_⟩ <;> simp [h1]

theorem pendingOp_command {s : State} {w : Word} (h : s.pending = .command w) : s.pendingOp = w.extractLsb' 0 8 := by
  rw [State.pendingOp, h]

/-- Settles O18: both completions say it of the state the command's writes left, whose first error only SRST has changed. -/
theorem commandCompletion : Obligations.CommandCompletion := by
  intro i s t h
  obtain ⟨u, he, ht⟩ := exec_cases h
  obtain ⟨hd, hp, hb, hz, hc⟩ := ends_codes ht
  by_cases hi : i = .srst
  · subst hi
    obtain rfl := Host.Outcome.next.inj ((exec_srst s).symm.trans h)
    exact ⟨hd, hp, hb, fun h => absurd rfl h, fun h => absurd rfl h, fun h => absurd rfl h,
      fun _ _ _ h => absurd rfl h, hz, hc, fun _ => ⟨rfl, rfl, rfl⟩⟩
  · obtain ⟨e1, e2⟩ := he.firstError hi
    obtain ⟨h1, h2, h3, h4⟩ := ends_firstError ht
    rw [e1] at h1 h2 h3 h4
    rw [e2] at h1 h3
    have hop : u.pendingOp = s.pendingOp := by rw [State.pendingOp, he.pending, State.pendingOp]
    exact ⟨hd, hp, hb, fun _ => h1, fun _ => h2, fun _ => h3,
      fun w hw hf hl => by rw [h4 hf hl, hop, pendingOp_command hw], hz, hc, fun h => absurd h hi⟩

/-- A command keeps a recorded first error, but for SRST, which clears it. -/
theorem exec_errFirst {i : Instr} {s t : State} (h : exec i s = .next t) (hs : s.errFirst ≠ .noError) :
    t.errFirst = s.errFirst ∨ t.errFirst = .noError := by
  obtain ⟨-, -, -, hk, -, -, -, -, -, hr⟩ := commandCompletion i s t h
  by_cases hi : i = .srst
  · exact .inr (hr hi).1
  · exact .inl (hk hi hs).1

/-- A host write keeps the first error or acknowledges it (60 R251). -/
theorem written_errFirst {s u : State} {d : Word} {l : Loc} (h : Written s d l u) :
    u.errFirst = s.errFirst ∨ u.errFirst = .noError := by
  cases h with
  | acknowledge => exact .inr rfl
  | _ => exact .inl rfl

/-- Settles O19, one case for each thing a step can do to the block. -/
theorem firstErrorNeverReplaced : Obligations.FirstErrorNeverReplaced := by
  intro s t h hs
  obtain ⟨q, u, ha, ht⟩ := step_action h
  rw [ht]
  cases ha with
  | stay | init _ => exact .inl rfl
  | command _ he => exact (exec_errFirst he hs :)
  | illegal _ => exact .inl (if_neg hs)
  | violation => exact .inl (if_neg hs)
  | write _ _ hw => exact (written_errFirst hw :)
  | release => exact .inr rfl

end Sys2Proof.Safety
end

section
/-! The error registers, OUT and the queue's size (10 R37, R40, R48, R58, R60): each is kept by every step. -/
namespace Sys2Proof.Safety
open Sys2Proof.Machine

/-- A successful command leaves LAST_CODE 0, so nothing is promised of RESULT. -/
theorem errInv_done {s : State} (r : Word) (h : ErrInv s) : ErrInv (s.done r) :=
  ⟨h.firstOp, nofun, nofun, fun h => absurd rfl h⟩

/-- A failing command has just recorded a first error, if none was there. -/
theorem errInv_raise {s : State} {e : ErrCode} {d : Word} (hr : Reports e d) : ErrInv (s.raise e d) where
  firstOp hf := by
    by_cases hs : s.errFirst = .noError
    · simp only [State.raise_errFirst, hs, if_true] at hf
      exact absurd hf hr.error
    · simp only [State.raise_errFirst, hs, if_false] at hf
  last := hr.notBusy
  detail := hr.detail
  zero _ := hr.zero

theorem errInv_violation {s : State} (h : ErrInv s) : ErrInv s.recordBusyViolation where
  firstOp hf := by
    by_cases hs : s.errFirst = .noError <;> simp [hs] at hf
  last := h.last
  detail := h.detail
  zero := h.zero

theorem errInv_effect {i : Instr} {s u : State} (h : ErrInv s) (he : Effect i s u) : ErrInv u := by
  cases he with
  | softReset => exact ⟨fun _ => rfl, h.last, h.detail, h.zero⟩
  | _ => exact ⟨h.firstOp, h.last, h.detail, h.zero⟩

theorem errInv_written {s u : State} {d : Word} {l : Loc} (h : ErrInv s) (hw : Written s d l u) : ErrInv u := by
  cases hw with
  | acknowledge => exact ⟨fun _ => rfl, h.last, h.detail, h.zero⟩
  | _ => exact ⟨h.firstOp, h.last, h.detail, h.zero⟩

theorem errInv_keptByStep : KeptByStep ErrInv where
  env _ _ _ h := ⟨h.firstOp, h.last, h.detail, h.zero⟩
  init _ h := ⟨h.firstOp, h.last, h.detail, h.zero⟩
  effect _ := errInv_effect
  done r _ := errInv_done r
  raise _ hr _ := errInv_raise hr
  violation := errInv_violation
  write _ _ := errInv_written
  release _ := ⟨fun _ => rfl, nofun, nofun, fun h => absurd rfl h⟩

/-- DECODE emits symbols only (45 R195, R196). -/
theorem decodeLoop_syms {s : State} {left i k : Nat} {pos : Slot} {out out' : Memory} {r : Except ErrCode Nat}
    (ho : ∀ c ∈ out, c.2.toNat < 128) (hk : k ≤ s.params.outBytes)
    (h : decodeLoop s left i pos k out = (out', r)) :
    (∀ c ∈ out', c.2.toNat < 128) ∧ ∀ k', r = .ok k' → k' ≤ s.params.outBytes := by
  have emit : ∀ k (out : Memory) (y : Sym), k ≠ s.params.outBytes →
      (∀ c ∈ out, c.2.toNat < 128) ∧ k ≤ s.params.outBytes →
      (∀ c ∈ out.poke k (y.setWidth 8), c.2.toNat < 128) ∧ k + 1 ≤ s.params.outBytes := by
    intro k out y hne ⟨ho, hk⟩
    refine ⟨fun c hc => ?_, by omega⟩
    rcases Memory.mem_poke hc with rfl | hc
    · have := y.isLt
      simp only [BitVec.toNat_setWidth]
      omega
    · exact ho c hc
  obtain ⟨k', ⟨ho', hk'⟩, hr⟩ := decodeLoop_keeps emit ⟨ho, hk⟩ h
  refine ⟨ho', fun n hn => ?_⟩
  rcases hr with rfl | rfl | rfl <;> cases hn
  exact hk'

theorem outInv_effect {i : Instr} {s u : State} (h : OutInv s) (he : Effect i s u) : OutInv u := by
  cases he with
  | softReset => exact ⟨h.syms, Nat.zero_le _⟩
  | noText => exact ⟨h.syms, Nat.zero_le _⟩
  | partText s out e hw => exact ⟨(decodeLoop_syms h.syms (Nat.zero_le _) hw).1, Nat.zero_le _⟩
  | text s out k hw =>
    obtain ⟨hs, hk⟩ := decodeLoop_syms h.syms (Nat.zero_le _) hw
    refine ⟨hs, ?_⟩
    have := hk k rfl
    have := Nat.mod_le k (2 ^ 17)
    simp only [BitVec.toNat_ofNat]
    omega
  | _ => exact ⟨h.syms, h.len⟩

/-- The window of OUT is read-only (20 R83). -/
theorem outInv_written {s u : State} {d : Word} {l : Loc} (h : OutInv s) (hw : Written s d l u) : OutInv u := by
  cases hw <;> exact ⟨h.syms, h.len⟩

theorem outInv_keptByStep : KeptByStep OutInv where
  env _ _ _ h := ⟨h.syms, h.len⟩
  init _ h := ⟨h.syms, h.len⟩
  effect _ := outInv_effect
  done _ _ h := ⟨h.syms, h.len⟩
  raise _ _ h := ⟨h.syms, h.len⟩
  violation h := ⟨h.syms, h.len⟩
  write _ _ := outInv_written
  release _ := ⟨fun _ hc => absurd hc List.not_mem_nil, Nat.zero_le _⟩

/-- BUILD ends with an empty queue (42 R166). -/
theorem buildLoop_hsize {fuel : Nat} {b b' : Builder} {root : Slot} (h : buildLoop fuel b = some (root, b')) :
    b'.hsize = 0 := by
  induction fuel generalizing b with
  | zero => cases h
  | succ fuel ih =>
    simp only [buildLoop] at h
    split at h
    · cases h
    · split at h
      · rename_i h0
        cases h
        exact h0
      · exact ih h

theorem hsize_effect {i : Instr} {s u : State} (h : s.hsize = 0) (he : Effect i s u) : u.hsize = 0 := by
  cases he with
  | installTree s root b hb => exact buildLoop_hsize hb
  | _ => exact h

theorem hsize_written {s u : State} {d : Word} {l : Loc} (h : s.hsize = 0) (hw : Written s d l u) : u.hsize = 0 := by
  cases hw <;> exact h

theorem hsize_keptByStep : KeptByStep (fun s => s.hsize = 0) where
  env _ _ _ h := h
  init _ h := h
  effect _ := hsize_effect
  done _ _ h := h
  raise _ _ h := h
  violation h := h
  write _ _ := hsize_written
  release h := h

/-! ### The host's program index -/

theorem exec_host {i : Instr} {s t : State} (h : exec i s = .next t) : t.host = s.host :=
  (exec_frame h .env (by cases i <;> simp [mayWrite])).2.2.2.2

theorem written_host {s u : State} {d : Word} {l : Loc} (h : Written s d l u) : u.host = s.host := by
  cases h <;> rfl

/-- No access of the host and no action of the engine touches the host agent. -/
theorem action_host {s u : State} (h : Action s u) : u.host = s.host := by
  cases h with
  | command _ he => exact exec_host he
  | write _ _ hw => exact written_host hw
  | _ => rfl

/-- A host operation leaves the program and moves its index by at most one (30 R125). -/
theorem hostOp_host {s t : State} {op : HostOp} (h : hostOp s op = .next t) :
    t.host.program = s.host.program ∧ (t.host.index = s.host.index ∨ t.host.index = s.host.index + 1) := by
  rcases hostOp_cases h with ⟨a, d, -, -, rfl⟩ | ⟨a, -, -, rfl⟩ | ⟨-, -, rfl⟩ | ⟨-, rfl⟩ | ⟨-, -, rfl⟩ | ⟨-, -, rfl⟩
  · simp [State.hostWrite, State.hostAdvance, State.hostResp, action_host (s.busWrite_action a d)]
  · simp [State.hostRead, State.hostAdvance, State.hostRecord, action_host (s.busRead_action a)]
  · rw [State.hostWait, State.busRead_status]
    simp only
    split <;> simp [State.hostAdvance, State.hostRecord]
  · exact ⟨rfl, .inr rfl⟩
  · exact ⟨rfl, .inr rfl⟩
  · exact ⟨rfl, .inr rfl⟩

/-- A step leaves the program, and moves its index by one at most, from an operation of the program. -/
theorem step_index {s t : State} (h : step s = .next t) (hi : s.host.index ≤ s.host.program.length) :
    t.host.index ≤ t.host.program.length := by
  rcases step_cases h with ⟨-, -, rfl⟩ | ⟨w, i, -, -, -, he⟩ | ⟨w, e, -, -, -, rfl⟩ | ⟨-, -, rfl⟩ | ⟨op, -, hn, ho⟩
  · exact hi
  · rwa [exec_host he]
  · exact hi
  · exact hi
  · obtain ⟨hl, -⟩ := List.getElem?_eq_some_iff.1 hn
    have hs : (if s.rstN && s.busy then { s with sched := s.sched.tick } else s).host = s.host := by split <;> rfl
    obtain ⟨hp, hx⟩ := hostOp_host ho
    rw [hs] at hp hx
    rw [hp]
    omega

/-- Settles O14: one invariant lemma for each of the three. -/
theorem stepKeepsErrorAndOut : Obligations.StepKeepsErrorAndOut := fun _ _ h =>
  ⟨fun he => errInv_keptByStep.step he h, fun ho => outInv_keptByStep.step ho h,
    fun hi => ⟨hsize_keptByStep.step hi.hsize h, step_index h hi.index⟩⟩

end Sys2Proof.Safety
end

section
/-! The address map, one equation per range (20 R83). -/
namespace Sys2Proof.Machine

section
variable (p : Params) {n : Nat}

theorem locate_reg (h : n < 0x400) : locate p n = (regAt (n / 4)).map Loc.reg := by
  simp [locate, h]

theorem locate_freq (h1 : 0x400 ≤ n) (h2 : n < 0x600) :
    locate p n = some (.freq (BitVec.ofNat 7 ((n - 0x400) / 4))) := by
  rw [locate, if_neg (by omega), if_pos h2]

theorem locate_node (h1 : 0x800 ≤ n) (h2 : n < 0x1000) :
    locate p n = some (.node (BitVec.ofNat 8 ((n - 0x800) / 8)) (decide (n / 4 % 2 = 1))) := by
  rw [locate, if_neg (by omega), if_neg (by omega), if_neg (by omega), if_pos h2]

theorem locate_code (h1 : 0x1000 ≤ n) (h2 : n < 0x2000) :
    locate p n = some (.code (BitVec.ofNat 7 ((n - 0x1000) / 32)) (BitVec.ofNat 3 (n / 4))) := by
  rw [locate, if_neg (by omega), if_neg (by omega), if_neg (by omega), if_neg (by omega), if_pos h2]

theorem locate_tree (h1 : 0x2000 ≤ n) (h2 : n < 0x2200) : locate p n = some (.bytes .tree (n - 0x2000)) := by
  rw [locate, if_neg (by omega), if_neg (by omega), if_neg (by omega), if_neg (by omega), if_neg (by omega), if_pos h2]

/-- The window of CART ends where that of OUT may begin, whatever CART_BYTES (00 R9). -/
theorem locate_cart (hl : p.Legal) (h1 : 0x10000 ≤ n) (h2 : n < 0x10000 + p.cartBytes) :
    locate p n = some (.bytes .cart (n - 0x10000)) := by
  obtain ⟨⟨-, -, hc⟩, -⟩ := hl
  rw [locate, if_neg (by omega), if_neg (by omega), if_neg (by omega), if_neg (by omega), if_neg (by omega),
    if_neg (by omega), if_neg (by omega), if_pos (by omega), if_pos (by omega)]

theorem locate_out (h1 : 0x20000 ≤ n) (h2 : n < 0x20000 + p.outBytes) :
    locate p n = some (.bytes .out (n - 0x20000)) := by
  rw [locate, if_neg (by omega), if_neg (by omega), if_neg (by omega), if_neg (by omega), if_neg (by omega),
    if_neg (by omega), if_neg (by omega), if_neg (by omega), if_pos (by omega)]

end

/-- A mapped word of a byte window lies inside its memory (10 R56 to R58, 00 R9). -/
theorem locate_bytes {p : Params} {n a : Nat} {m : ByteMem} (hl : p.Legal) (h4 : n % 4 = 0)
    (h : locate p n = some (.bytes m a)) : a + 4 ≤ memSize p m := by
  obtain ⟨⟨hc, -, -⟩, ho, -, -⟩ := hl
  unfold locate at h
  repeat' split at h
  · simp at h
  all_goals
    cases h
  all_goals
    simp only [memSize, Config.treeBytes]
    omega

theorem target_bytes {s : State} {o : Offset} {a : Nat} {m : ByteMem} (hl : s.params.Legal)
    (h : s.target o = some (.bytes m a)) : a + 4 ≤ memSize s.params m := by
  unfold State.target at h
  split at h
  · rename_i h4; exact locate_bytes hl h4 h
  · cases h

end Sys2Proof.Machine
end

section
/-! The byte memories keep their canonical form (10 R56 to R58). -/
namespace Sys2Proof.Safety
open Sys2Proof.Machine

theorem memInv_setMem {s : State} {m : ByteMem} {x : Memory} (h : MemInv s) (hx : x.wf (memSize s.params m)) :
    MemInv (s.setMem m x) where
  legal := by rw [State.setMem_params]; exact h.legal
  wf m' := by
    rw [State.mem_setMem, State.setMem_params]
    split
    · rename_i e; rw [e]; exact hx
    · exact h.wf m'

theorem memInv_memWrites {s : State} {m : ByteMem} {a : Nat} {bs : List Byte} (h : MemInv s)
    (ha : a + bs.length ≤ memSize s.params m) : MemInv (s.memWrites m a bs) :=
  memInv_setMem h (Memory.wf_pokes bs (h.wf m) ha)

theorem memInv_writeBytes {s : State} {m : ByteMem} {a : Nat} (d : Word) (h : MemInv s)
    (ha : a + 4 ≤ memSize s.params m) : MemInv (s.writeBytes m a d) :=
  memInv_memWrites h ha

/-- The header is four of CART's at least eight bytes (00 R9). -/
theorem memInv_setHdr {s : State} (n : Word) (h : MemInv s) : MemInv (s.setHdr n) :=
  memInv_memWrites h (by have := h.legal.1.2.1; simp [memSize]; omega)

theorem memInv_setbit {s : State} {i : Nat} (b : Bool) (h : MemInv s) (hi : bitAddr i < s.params.cartBytes) :
    MemInv (s.setbit i b) :=
  memInv_setMem h (Memory.wf_poke _ (h.wf .cart) hi)

/-- The append loop stays in CART when the whole stream fits there (40 R142). -/
theorem memInv_setbits {s : State} {n len j : Nat} (f : Nat → Bool) (h : MemInv s)
    (hf : 4 + ceil8 (n + j + len) ≤ s.params.cartBytes) : MemInv (s.setbits n f len j) := by
  induction len generalizing s j with
  | zero => exact h
  | succ len ih =>
    have hb : bitAddr (n + j) < s.params.cartBytes := by
      unfold ceil8 at hf
      unfold bitAddr
      omega
    refine ih (memInv_setbit _ h hb) ?_
    rw [show n + (j + 1) + len = n + j + (len + 1) by omega]
    exact hf

/-- DECODE emits inside OUT (45 R195). -/
theorem decodeLoop_wf {s : State} {left i : Nat} {pos : Slot} {out : Memory} {r : Except ErrCode Nat} (h : MemInv s)
    (hw : decodeLoop s left i pos 0 s.out = (out, r)) : out.wf s.params.outBytes := by
  have emit : ∀ k (x : Memory) (y : Sym), k ≠ s.params.outBytes → x.wf s.params.outBytes ∧ k ≤ s.params.outBytes →
      (x.poke k (y.setWidth 8)).wf s.params.outBytes ∧ k + 1 ≤ s.params.outBytes :=
    fun k x y hne ⟨hx, hk⟩ => ⟨Memory.wf_poke _ hx (by omega), by omega⟩
  obtain ⟨k', ⟨hx, -⟩, -⟩ := decodeLoop_keeps emit ⟨h.wf .out, Nat.zero_le _⟩ hw
  exact hx

/-- The artifact of a tree of at most 255 nodes fits in TREE_MEM (46 R212). -/
theorem length_serialize_le {t : Tree} (h : t.size ≤ 255) : t.serialize.length ≤ 512 := by
  have := t.size_add_one
  have := t.length_serialize
  omega

theorem memInv_effect {i : Instr} {s u : State} (h : MemInv s) (he : Effect i s u) : MemInv u := by
  cases he with
  | createBuffer n s x k hf hx =>
    have hc := h.legal.1.2.1
    have := memInv_setHdr (BitVec.ofNat 32 n) (memInv_setMem h (m := .cart)
      (Memory.wf_fill (a := 4) (n := s.params.cartBytes - 4) 0#8 (h.wf .cart) (by simp only [memSize]; omega)))
    rw [← hx]
    exact ⟨this.legal, this.wf⟩
  | setbit i b s x hi hx =>
    simp only [State.bitInBounds, Bool.and_eq_true, decide_eq_true_eq] at hi
    exact hx ▸ memInv_setbit b h hi.2
  | appendCode c s e x k hf hx =>
    have := memInv_setHdr (BitVec.ofNat 32 (s.be32.toNat + e.clen.toNat))
      (memInv_setbits (j := 0) e.cbits.getLsbD h (by simpa [fitsCart] using hf))
    rw [← hx]
    exact ⟨this.legal, this.wf⟩
  | partText s out e hw =>
    have := memInv_setMem h (m := .out) (decodeLoop_wf h hw)
    exact ⟨this.legal, this.wf⟩
  | text s out k hw =>
    have := memInv_setMem h (m := .out) (decodeLoop_wf h hw)
    exact ⟨this.legal, this.wf⟩
  | artifact s t ht =>
    have := memInv_memWrites h (m := .tree) (a := 0) (bs := t.serialize)
      (by simpa [memSize] using length_serialize_le (readTree_of_tree? ht).2)
    exact ⟨this.legal, this.wf⟩
  | _ => exact ⟨h.legal, h.wf⟩

theorem memInv_written {s u : State} {a : Offset} {l : Loc} {d : Word} (hl : s.target a = some l) (h : MemInv s)
    (hw : Written s d l u) : MemInv u := by
  cases hw with
  | treeBytes a x hx | cartBytes a x hx => exact hx ▸ memInv_writeBytes d h (target_bytes h.legal hl)
  | _ => exact ⟨h.legal, h.wf⟩

theorem memInv_keptByStep : KeptByStep MemInv where
  env _ _ _ h := ⟨h.legal, h.wf⟩
  init _ h := ⟨h.legal, h.wf⟩
  effect _ := memInv_effect
  done _ _ h := ⟨h.legal, h.wf⟩
  raise _ _ h := ⟨h.legal, h.wf⟩
  violation h := ⟨h.legal, h.wf⟩
  write ht _ := memInv_written ht
  release h := ⟨h.legal, (memInv_resetWith h.legal).wf⟩

/-- Settles O10: a command writes where it has checked that the bytes fit, and the host only at mapped words. -/
theorem stepKeepsMemoryForm : Obligations.StepKeepsMemoryForm := fun _ _ h hs => memInv_keptByStep.step h hs

end Sys2Proof.Safety
end

section
/-! FREQ_TOTAL and DISTINCT follow FREQ (10 R41, R43). -/
namespace Sys2Proof.Safety
open Sys2Proof.Machine

/-- Replacing one number changes a sum by the difference. -/
theorem sum_set_add (l : List Nat) (i x : Nat) (h : i < l.length) : (l.set i x).sum + l[i] = l.sum + x := by
  induction l generalizing i with
  | nil => exact absurd h (Nat.not_lt_zero i)
  | cons a l ih =>
    cases i with
    | zero => simp only [List.set_cons_zero, List.getElem_cons_zero, List.sum_cons]; omega
    | succ i =>
      have := ih i (Nat.lt_of_succ_lt_succ h)
      simp only [List.set_cons_succ, List.getElem_cons_succ, List.sum_cons]
      omega

/-- The sum of FREQ, as numbers (10 R41). -/
def freqSum (v : Vector Word 128) : Nat := (v.toList.map BitVec.toNat).sum

/-- The number of nonzero counts (10 R43). -/
def freqCount (v : Vector Word 128) : Nat := v.toList.countP (fun f => decide (f ≠ 0#32))

theorem freqSum_zero : freqSum zeroFreq = 0 := by simp [freqSum, zeroFreq]

theorem freqCount_zero : freqCount zeroFreq = 0 := by simp [freqCount, zeroFreq]

theorem freqSum_set (s : State) (y : Sym) (f : Word) :
    freqSum (s.freq.set y.toNat f y.isLt) + (s.freqAt y).toNat = freqSum s.freq + f.toNat := by
  have hy : y.toNat < (s.freq.toList.map BitVec.toNat).length := by simpa using y.isLt
  have := sum_set_add _ _ f.toNat hy
  rw [← List.map_set, ← Vector.toList_set (h := y.isLt), List.getElem_map, Vector.getElem_toList] at this
  exact this

theorem freqAt_le_sum (s : State) (y : Sym) : (s.freqAt y).toNat ≤ freqSum s.freq :=
  List.single_le_sum (fun _ _ => Nat.zero_le _) _
    (List.mem_map_of_mem (Vector.mem_toList_iff.2 (Vector.getElem_mem y.isLt)))

theorem freqCount_le (v : Vector Word 128) : freqCount v ≤ 128 :=
  List.countP_le_length.trans_eq v.length_toList

/-- A first occurrence raises the number of nonzero counts, and another does not. -/
theorem freqCount_set (s : State) (y : Sym) {f : Word} (hf : f ≠ 0#32) :
    freqCount (s.freq.set y.toNat f y.isLt) =
      if s.freqAt y = 0#32 then freqCount s.freq + 1 else freqCount s.freq := by
  have hy : y.toNat < s.freq.toList.length := by simpa using y.isLt
  have hc := List.countP_set (p := fun f : Word => decide (f ≠ 0#32)) (a := f) hy
  rw [Vector.getElem_toList, ← Vector.toList_set (h := y.isLt)] at hc
  change freqCount _ = freqCount s.freq - (if decide (s.freqAt y ≠ 0#32) then 1 else 0) + _ at hc
  rw [hc, decide_eq_true hf, if_pos rfl]
  by_cases h0 : s.freqAt y = 0#32
  · simp [h0]
  · have : 0 < freqCount s.freq :=
      List.countP_pos_iff.2 ⟨s.freqAt y, Vector.mem_toList_iff.2 (Vector.getElem_mem y.isLt), by simpa using h0⟩
    simp [h0]
    omega

theorem countInv_of {s : State} (hp : s.pending ≠ .init) (ht : s.freqTotal.toNat = freqSum s.freq)
    (hd : s.distinct.toNat = freqCount s.freq) : CountInv s :=
  ⟨fun h => absurd h hp, fun _ => ht, fun _ => hd⟩

theorem countInv_cleared {s : State} (hp : s.pending ≠ .init) (hf : s.freq = zeroFreq) (ht : s.freqTotal = 0#32)
    (hd : s.distinct = 0#8) : CountInv s :=
  countInv_of hp (by rw [hf, ht, freqSum_zero]; rfl) (by rw [hf, hd, freqCount_zero]; rfl)

/-- Counting a symbol below a full total wraps no counter: its count is at most the total, and at most 128 symbols are
counted. -/
theorem countInv_countSym {s : State} {y : Sym} (hp : s.pending ≠ .init) (h : CountInv s)
    (hf : s.freqTotal ≠ 0xFFFFFFFF#32) : CountInv (s.countSym y) := by
  have ht : s.freqTotal.toNat = freqSum s.freq := h.total hp
  have hd : s.distinct.toNat = freqCount s.freq := h.distinct hp
  have hroom : s.freqTotal.toNat + 1 < 2 ^ 32 := by
    have hfull : s.freqTotal.toNat ≠ 2 ^ 32 - 1 := fun e => hf (BitVec.eq_of_toNat_eq e)
    have := s.freqTotal.isLt
    omega
  have hle := freqAt_le_sum s y
  have hy : (s.freqAt y + 1#32).toNat = (s.freqAt y).toNat + 1 := BitVec.toNat_add_of_lt (by simp; omega)
  have hne : s.freqAt y + 1#32 ≠ 0#32 := fun e => by rw [e] at hy; simp at hy
  refine countInv_of hp ?_ ?_
  · have hset := freqSum_set s y (s.freqAt y + 1#32)
    have hsum : (s.freqTotal + 1#32).toNat = s.freqTotal.toNat + 1 := BitVec.toNat_add_of_lt hroom
    simp only [State.countSym]
    omega
  · have hcnt := freqCount_set s y hne
    have h128 := freqCount_le (s.freq.set y.toNat (s.freqAt y + 1#32) y.isLt)
    simp only [State.countSym]
    rw [hcnt] at h128 ⊢
    split
    · rename_i h0
      rw [if_pos h0] at h128
      rw [BitVec.toNat_add_of_lt (by simp; omega), hd]
      rfl
    · exact hd

theorem countInv_effect {i : Instr} {s u : State} (hp : s.pending ≠ .init) (h : CountInv s) (he : Effect i s u) :
    CountInv u := by
  cases he with
  | softReset | clearCounts => exact countInv_cleared hp rfl rfl rfl
  | countSym c s y hf => exact countInv_countSym hp h hf
  | _ => exact ⟨h.init, h.total, h.distinct⟩

/-- A write to CMD while BUSY is a violation, so it never issues a command while INIT is pending (70 R282). -/
theorem idle_of_free {s : State} {r : Reg} (hv : s.violates (.reg r) = false) (hr : (Loc.reg r).isCtl = false) :
    s.pending = .idle := by
  simpa [State.violates, hr, State.busy] using hv

theorem countInv_written {s u : State} {l : Loc} {d : Word} (hv : s.violates l = false) (h : CountInv s)
    (hw : Written s d l u) : CountInv u := by
  cases hw with
  | command =>
    have hp : s.pending ≠ .init := by simp [idle_of_free hv rfl]
    exact countInv_of nofun (h.total hp) (h.distinct hp)
  | _ => exact ⟨h.init, h.total, h.distinct⟩

theorem countInv_keptByStep : KeptByStep CountInv where
  env _ _ _ h := ⟨h.init, h.total, h.distinct⟩
  init hp h := countInv_cleared nofun rfl (h.init hp).1 (h.init hp).2
  effect := countInv_effect
  done _ hp h := countInv_of nofun (h.total hp) (h.distinct hp)
  raise hp _ h := countInv_of nofun (h.total hp) (h.distinct hp)
  violation h := ⟨h.init, h.total, h.distinct⟩
  write _ hv := countInv_written hv
  release _ := ⟨fun _ => ⟨rfl, rfl⟩, fun h => absurd rfl h, fun h => absurd rfl h⟩

/-- Settles O11: FREQ_ADD is the one action that counts, and INIT, SRST and FREQ_CLR clear all three together. -/
theorem stepKeepsCounts : Obligations.StepKeepsCounts := fun _ _ h hs => countInv_keptByStep.step h hs

end Sys2Proof.Safety
end

section
/-! Trees in the arena without fuel: which tree hangs from a slot, and which slots it takes (10 R62). -/
namespace Sys2Proof.Safety
open Sys2Proof.Machine

/-- The tree that hangs from slot `i` of the arena, and the slots it takes, in pre-order. -/
inductive Hangs (nodes : Vector Node 256) : Slot → Tree → List Nat → Prop where
  | leaf {i : Slot} (h : (nodeAt nodes i).leaf = true) : Hangs nodes i (.leaf (nodeAt nodes i).sym) [i.toNat]
  | node {i : Slot} {l r : Tree} {ls rs : List Nat} (h : (nodeAt nodes i).leaf = false)
      (hl : Hangs nodes (nodeAt nodes i).left l ls) (hr : Hangs nodes (nodeAt nodes i).right r rs) :
      Hangs nodes i (.node l r) (i.toNat :: (ls ++ rs))

section
variable {nodes : Vector Node 256} {i : Slot} {t : Tree} {is : List Nat}

/-- A tree takes one slot for each node. -/
theorem Hangs.length_slots (h : Hangs nodes i t is) : is.length = t.size := by
  induction h with
  | leaf => rfl
  | node _ _ _ ihl ihr => simp [Tree.size, ihl, ihr]; omega

/-- A tree depends only on the slots it takes. -/
theorem Hangs.congr {nodes' : Vector Node 256} (h : Hangs nodes i t is)
    (e : ∀ j : Slot, j.toNat ∈ is → nodeAt nodes' j = nodeAt nodes j) : Hangs nodes' i t is := by
  induction h with
  | leaf h =>
    rw [← e _ List.mem_cons_self] at h ⊢
    exact .leaf h
  | node h _ _ ihl ihr =>
    rw [← e _ List.mem_cons_self] at h ihl ihr
    exact .node h (ihl fun j hj => e j (List.mem_cons_of_mem _ (List.mem_append_left _ hj)))
      (ihr fun j hj => e j (List.mem_cons_of_mem _ (List.mem_append_right _ hj)))

/-- Writing a slot that the tree does not take leaves the tree. -/
theorem Hangs.setNode {j : Slot} (n : Node) (h : Hangs nodes i t is) (hj : j.toNat ∉ is) :
    Hangs (setNode nodes j n) i t is :=
  h.congr fun k hk => by
    rw [nodeAt_setNode, if_neg]
    rintro rfl
    exact hj hk

/-- A leaf written to a slot. -/
theorem hangs_mkLeaf (nodes : Vector Node 256) (i : Slot) (y : Sym) (f : Word) :
    Hangs (setNode nodes i (Node.mkLeaf y f)) i (.leaf y) [i.toNat] := by
  have hat : nodeAt (setNode nodes i (Node.mkLeaf y f)) i = Node.mkLeaf y f := by rw [nodeAt_setNode, if_pos rfl]
  have := Hangs.leaf (congrArg Node.leaf hat)
  rwa [hat] at this

/-- An internal slot written above two trees that do not take it. -/
theorem hangs_mkInternal {a c : Slot} {l r : Tree} {ls rs : List Nat} (f : Word) (hl : Hangs nodes a l ls)
    (hr : Hangs nodes c r rs) (hil : i.toNat ∉ ls) (hir : i.toNat ∉ rs) :
    Hangs (setNode nodes i (Node.mkInternal f a c)) i (.node l r) (i.toNat :: (ls ++ rs)) := by
  have hat : nodeAt (setNode nodes i (Node.mkInternal f a c)) i = Node.mkInternal f a c := by
    rw [nodeAt_setNode, if_pos rfl]
  exact .node (congrArg Node.leaf hat) (by rw [hat]; exact hl.setNode _ hil) (by rw [hat]; exact hr.setNode _ hir)

theorem symbols_pos (t : Tree) : 0 < t.symbols.length := by
  have := t.size_add_one
  omega

/-- A path is shorter than the number of leaves, so the walks with that much fuel read the tree and its slots. -/
theorem Hangs.read {fuel : Nat} (h : Hangs nodes i t is) (hf : t.symbols.length ≤ fuel) :
    readTree nodes fuel i = some t ∧ slotsFrom nodes fuel i = is := by
  induction h generalizing fuel with
  | leaf h =>
    obtain ⟨f, rfl⟩ := Nat.exists_eq_add_of_le' hf
    simp [readTree, slotsFrom, Tree.symbols, h]
  | @node i l r ls rs h _ _ ihl ihr =>
    have := symbols_pos l
    have := symbols_pos r
    rw [Tree.symbols, List.length_append] at hf
    obtain ⟨f, rfl⟩ : ∃ f, fuel = f + 1 := ⟨fuel - 1, by omega⟩
    obtain ⟨el, sl⟩ := ihl (fuel := f) (by omega)
    obtain ⟨er, sr⟩ := ihr (fuel := f) (by omega)
    simp [readTree, slotsFrom, h, el, er, sl, sr]

/-- There are 128 symbols. -/
theorem length_le_of_nodup {ys : List Sym} (h : ys.Nodup) : ys.length ≤ 128 :=
  h.length_le_card.trans_eq (FinEnum.card_eq_fintypeCard.symm.trans (FinEnum.card_bitVec 7))

/-- A tree with distinct symbols whose slots are the first `cnt` is what TREE_VALID promises (10 R62). -/
theorem Hangs.treeOk {cnt : Nat} (h : Hangs nodes i t is) (hs : is.Perm (List.range cnt)) (hn : t.symbols.Nodup) :
    TreeOk nodes i cnt := by
  have h128 := length_le_of_nodup hn
  obtain ⟨hr, hsl⟩ := h.read h128
  have hlen := hs.length_eq
  have hsize := t.size_add_one
  rw [h.length_slots, List.length_range] at hlen
  exact ⟨by omega, ⟨t, hr, hn⟩, hsl ▸ hs⟩

end

/-! ### The form of the slots (10 R52, R53) -/

/-- A leaf has no children and an internal slot no symbol (10 R53). -/
def NodeForm (n : Node) : Prop := if n.leaf then n.left = 0#8 ∧ n.right = 0#8 else n.sym = 0#7

/-- Every slot has its zero fields, and the slots from `cnt` on are all-zero (10 R52, R53). -/
structure ArenaOk (nodes : Vector Node 256) (cnt : Nat) : Prop where
  form : ∀ i : Slot, NodeForm (nodeAt nodes i)
  unallocated : ∀ i : Slot, cnt ≤ i.toNat → nodeAt nodes i = Node.zero

theorem nodeForm_mkLeaf (y : Sym) (f : Word) : NodeForm (Node.mkLeaf y f) := ⟨rfl, rfl⟩

theorem nodeForm_mkInternal (f : Word) (l r : Slot) : NodeForm (Node.mkInternal f l r) := rfl

theorem arenaOk_zero (cnt : Nat) : ArenaOk zeroNodes cnt :=
  ⟨fun i => by rw [nodeAt_zeroNodes]; exact Node.zero_form, fun i _ => nodeAt_zeroNodes i⟩

/-- Writing a slot below `cnt` with a well-formed node. -/
theorem ArenaOk.setNode {nodes : Vector Node 256} {cnt : Nat} {j : Slot} {n : Node} (h : ArenaOk nodes cnt)
    (hn : NodeForm n) (hj : j.toNat < cnt) : ArenaOk (setNode nodes j n) cnt where
  form i := by
    rw [nodeAt_setNode]
    split
    · exact hn
    · exact h.form i
  unallocated i hi := by
    rw [nodeAt_setNode, if_neg (by rintro rfl; omega)]
    exact h.unallocated i hi

theorem ArenaOk.mono {nodes : Vector Node 256} {cnt cnt' : Nat} (h : ArenaOk nodes cnt) (hc : cnt ≤ cnt') :
    ArenaOk nodes cnt' :=
  ⟨h.form, fun i hi => h.unallocated i (hc.trans hi)⟩

/-- The slot of a number. -/
theorem toNat_slot {n : Nat} (h : n < 256) : (BitVec.ofNat 8 n).toNat = n := by
  simp only [BitVec.toNat_ofNat]
  omega

theorem nodeAt_ofNat (nodes : Vector Node 256) {i : Nat} (h : i < 256) : nodeAt nodes (BitVec.ofNat 8 i) = nodes[i] := by
  unfold nodeAt
  congr 1
  exact toNat_slot h

end Sys2Proof.Safety
end

section
/-! The priority queue keeps its entries: sifting only permutes them (42 R161, R162). -/
namespace Sys2Proof.Safety
open Sys2Proof.Machine

/-- The first `m` entries of HEAP. -/
def heapList (h : Vector Slot 128) (m : Nat) : List Slot := (List.range m).map (heapAt h)

theorem entries_eq (b : Builder) : entries b = heapList b.heap b.hsize := rfl

/-- Moving an entry from `p` to the hole at `k` and filling `p` exchanges two entries. -/
theorem heapList_swap (h : Vector Slot 128) (x : Slot) {m k p : Nat} (hm : m ≤ 128) (hk : k < m) (hp : p < m) :
    (heapList (heapSet (heapSet h k (heapAt h p)) p x) m).Perm (heapList (heapSet h k x) m) := by
  have hswap : ∀ j ∈ List.range m, heapAt (heapSet (heapSet h k (heapAt h p)) p x) j =
      heapAt (heapSet h k x) (Equiv.swap k p j) := by
    intro j hj
    have hj := List.mem_range.1 hj
    have hs : Equiv.swap k p j < 128 := by
      rw [Equiv.swap_apply_def]
      split_ifs <;> omega
    rw [heapAt_heapSet _ _ _ _ (by omega) (by omega), heapAt_heapSet _ _ _ _ (by omega) (by omega),
      heapAt_heapSet _ _ _ _ hs (by omega), Equiv.swap_apply_def]
    split_ifs <;> simp_all
  have hrange : ((List.range m).map (Equiv.swap k p)).Perm (List.range m) := by
    refine (List.perm_ext_iff_of_nodup (List.nodup_range.map (Equiv.injective _)) List.nodup_range).2 fun j => ?_
    simp only [List.mem_map, List.mem_range]
    constructor
    · rintro ⟨i, hi, rfl⟩
      rw [Equiv.swap_apply_def]
      split_ifs <;> omega
    · intro hj
      refine ⟨Equiv.swap k p j, ?_, Equiv.swap_apply_self ..⟩
      rw [Equiv.swap_apply_def]
      split_ifs <;> omega
  unfold heapList
  rw [List.map_congr_left hswap, ← Function.comp_def, ← List.map_map]
  exact hrange.map _

/-- `siftUp` puts `x` into the hole at `k` and permutes the entries. -/
theorem siftUp_perm (key : Slot → Nat) (x : Slot) {m : Nat} (hm : m ≤ 128) (fuel : Nat) {k : Nat} (h : Vector Slot 128)
    (hk : k < m) : (heapList (siftUp key x fuel k h) m).Perm (heapList (heapSet h k x) m) := by
  induction fuel generalizing k h with
  | zero => exact .refl _
  | succ fuel ih =>
    simp only [siftUp]
    split
    · exact .refl _
    · split
      · exact .refl _
      · have hp : (k - 1) / 2 < m := by omega
        exact (ih _ hp).trans (heapList_swap h x hm hk hp)

theorem lesserChild_lt (key : Slot → Nat) {n k : Nat} (h : Vector Slot 128) (hk : k < n / 2) :
    lesserChild key n k h < n := by
  unfold lesserChild
  simp only
  split <;> omega

/-- `siftDown` puts `x` into the hole at `k` and permutes the entries. -/
theorem siftDown_perm (key : Slot → Nat) (x : Slot) {n : Nat} (hn : n ≤ 128) (fuel : Nat) {k : Nat}
    (h : Vector Slot 128) (hk : k < n) :
    (heapList (siftDown key x n fuel k h) n).Perm (heapList (heapSet h k x) n) := by
  induction fuel generalizing k h with
  | zero => exact .refl _
  | succ fuel ih =>
    simp only [siftDown]
    split
    · rename_i h2
      split
      · exact .refl _
      · have hc := lesserChild_lt key h h2
        exact (ih _ hc).trans (heapList_swap h x hn hk hc)
    · exact .refl _

/-- Writing an entry leaves the ones below it. -/
theorem heapList_heapSet (h : Vector Slot 128) (x : Slot) {k : Nat} (hk : k < 128) :
    heapList (heapSet h k x) (k + 1) = heapList h k ++ [x] := by
  unfold heapList
  rw [List.range_succ, List.map_append, List.map_cons, List.map_nil, heapAt_heapSet _ _ _ _ hk hk, if_pos rfl]
  congr 1
  refine List.map_congr_left fun j hj => ?_
  have := List.mem_range.1 hj
  rw [heapAt_heapSet _ _ _ _ (by omega) hk, if_neg (by omega)]

/-- `offer` adds one entry (42 R161). -/
theorem offer_perm (b : Builder) (x : Slot) (h : b.hsize < 128) : (entries (b.offer x)).Perm (x :: entries b) := by
  have := siftUp_perm (nodeKey b.nodes) x (m := b.hsize + 1) h b.hsize b.heap (Nat.lt_succ_self _)
  rw [heapList_heapSet _ _ h] at this
  exact this.trans List.perm_append_comm

theorem heapList_succ (h : Vector Slot 128) (m : Nat) : heapList h (m + 1) = heapList h m ++ [heapAt h m] := by
  simp [heapList, List.range_succ]

theorem heapList_cons (h : Vector Slot 128) (m : Nat) :
    heapList h (m + 1) = heapAt h 0 :: (List.range m).map (fun j => heapAt h (j + 1)) := by
  simp [heapList, List.range_succ_eq_map, Function.comp_def]

/-- Replacing the top entry leaves the others. -/
theorem heapList_heapSet_zero (h : Vector Slot 128) (x : Slot) {m : Nat} (hm : m < 128) :
    heapList (heapSet h 0 x) (m + 1) = x :: (List.range m).map (fun j => heapAt h (j + 1)) := by
  rw [heapList_cons, heapAt_heapSet _ _ _ _ (by omega) (by omega), if_pos rfl]
  congr 1
  refine List.map_congr_left fun j hj => ?_
  have := List.mem_range.1 hj
  rw [heapAt_heapSet _ _ _ _ (by omega) (by omega), if_neg (by omega)]

/-- `poll` takes the top entry off and keeps the others (42 R162). -/
theorem poll_perm (b : Builder) (h0 : 0 < b.hsize) (h : b.hsize ≤ 128) :
    (entries b).Perm (b.poll.1 :: entries b.poll.2) := by
  obtain ⟨n, hn⟩ : ∃ n, b.hsize = n + 1 := ⟨b.hsize - 1, by omega⟩
  simp only [entries_eq, Builder.poll, hn, Nat.add_sub_cancel]
  cases n with
  | zero => exact .refl _
  | succ m =>
    rw [if_pos (Nat.succ_pos m)]
    have hs := siftDown_perm (nodeKey b.nodes) (heapAt b.heap (m + 1)) (n := m + 1) (by omega) (m + 1) b.heap
      (Nat.succ_pos m)
    rw [heapList_heapSet_zero _ _ (by omega)] at hs
    rw [heapList_succ, heapList_cons]
    refine .cons _ (List.perm_append_comm.trans hs.symm)

end Sys2Proof.Safety
end

section
/-! BUILD keeps a forest: the trees in the queue take the allocated slots once, and their leaves are the counted symbols
(42 R163 to R167). -/
namespace Sys2Proof.Safety
open Sys2Proof.Machine

/-- From each of `roots` hangs a tree; together they take each slot below `cnt` once, and their symbols are `ys`. -/
def Forest (nodes : Vector Node 256) (roots : List Slot) (cnt : Nat) (ys : List Sym) : Prop :=
  ∃ ts : List (Tree × List Nat), List.Forall₂ (fun i p => Hangs nodes i p.1 p.2) roots ts ∧
    (ts.flatMap (fun p => p.2)).Perm (List.range cnt) ∧ (ts.flatMap (fun p => p.1.symbols)).Perm ys

section
variable {nodes : Vector Node 256} {roots : List Slot} {cnt : Nat} {ys : List Sym}

theorem forest_empty (nodes : Vector Node 256) : Forest nodes [] 0 [] := ⟨[], .nil, .refl _, .refl _⟩

/-- The order of the queue and of the symbols does not matter. -/
theorem Forest.perm {roots' : List Slot} {ys' : List Sym} (h : Forest nodes roots cnt ys) (hr : roots.Perm roots')
    (hy : ys.Perm ys') : Forest nodes roots' cnt ys' := by
  obtain ⟨ts, ht, hs, hm⟩ := h
  obtain ⟨ts', ht', hp⟩ := List.perm_comp_forall₂ hr.symm ht
  exact ⟨ts', ht', (hp.flatMap_right _).trans hs, ((hp.flatMap_right _).trans hm).trans hy⟩

/-- A forest without trees has no symbol. -/
theorem Forest.symbols_nil (h : Forest nodes [] cnt ys) : ys = [] := by
  obtain ⟨ts, ht, -, hm⟩ := h
  cases ht
  exact hm.nil_eq.symm

/-- Writing a slot that no tree takes leaves every tree. -/
theorem hangs_setNode_all {ts : List (Tree × List Nat)} {j : Slot} (n : Node)
    (ht : List.Forall₂ (fun i p => Hangs nodes i p.1 p.2) roots ts) (hj : j.toNat ∉ ts.flatMap (fun p => p.2)) :
    List.Forall₂ (fun i p => Hangs (setNode nodes j n) i p.1 p.2) roots ts := by
  induction ht with
  | nil => exact .nil
  | cons h _ ih =>
    rw [List.flatMap_cons, List.mem_append, not_or] at hj
    exact .cons (h.setNode n hj.1) (ih hj.2)

/-- The first unallocated slot is no tree's. -/
theorem not_mem_of_perm_range {is : List Nat} (hs : is.Perm (List.range cnt)) : cnt ∉ is :=
  fun h => absurd (List.mem_range.1 (hs.mem_iff.1 h)) (Nat.lt_irrefl _)

/-- The slots below `cnt` and `cnt` itself. -/
theorem perm_range_succ {is : List Nat} (hs : is.Perm (List.range cnt)) : (cnt :: is).Perm (List.range (cnt + 1)) := by
  rw [List.range_succ]
  exact (hs.cons cnt).trans (List.perm_append_singleton _ _).symm

/-- A new leaf is a tree of its own (42 R163). -/
theorem Forest.addLeaf (h : Forest nodes roots cnt ys) (hc : cnt < 256) (y : Sym) (f : Word) :
    Forest (setNode nodes (BitVec.ofNat 8 cnt) (Node.mkLeaf y f)) (BitVec.ofNat 8 cnt :: roots) (cnt + 1) (y :: ys) := by
  obtain ⟨ts, ht, hs, hm⟩ := h
  have hi := toNat_slot hc
  have hnew := hangs_mkLeaf nodes (BitVec.ofNat 8 cnt) y f
  rw [hi] at hnew
  exact ⟨(.leaf y, [cnt]) :: ts, .cons hnew (hangs_setNode_all _ ht (by rw [hi]; exact not_mem_of_perm_range hs)),
    perm_range_succ hs, hm.cons y⟩

/-- Joining two trees under a new slot takes that slot and keeps the symbols (42 R164). -/
theorem Forest.combine {a c : Slot} (h : Forest nodes (a :: c :: roots) cnt ys) (hc : cnt < 256) (f : Word) :
    Forest (setNode nodes (BitVec.ofNat 8 cnt) (Node.mkInternal f a c)) (BitVec.ofNat 8 cnt :: roots) (cnt + 1) ys := by
  obtain ⟨ts, ht, hs, hm⟩ := h
  obtain ⟨p, qs, hp, htail, rfl⟩ := List.forall₂_cons_left_iff.1 ht
  obtain ⟨q, us, hq, hrest, rfl⟩ := List.forall₂_cons_left_iff.1 htail
  have hi := toNat_slot hc
  have hfree := not_mem_of_perm_range hs
  simp only [List.flatMap_cons, List.mem_append, not_or] at hfree
  obtain ⟨hfp, hfq, hfu⟩ := hfree
  have hnew := hangs_mkInternal (i := BitVec.ofNat 8 cnt) f hp hq (by rwa [hi]) (by rwa [hi])
  rw [hi] at hnew
  refine ⟨(.node p.1 q.1, cnt :: (p.2 ++ q.2)) :: us, .cons hnew (hangs_setNode_all _ hrest (by rwa [hi])), ?_, ?_⟩
  · simpa using perm_range_succ hs
  · simpa [Tree.symbols] using hm

end

/-! ### BUILD's working state -/

theorem entries_addLeaf (b : Builder) (y : Sym) (f : Word) (h : b.hsize < 128) :
    (entries (b.addLeaf y f)).Perm (BitVec.ofNat 8 b.cnt :: entries b) :=
  offer_perm { b with nodes := setNode b.nodes (BitVec.ofNat 8 b.cnt) (Node.mkLeaf y f), cnt := b.cnt + 1 } _ h

theorem entries_combine (b : Builder) (a c : Slot) (h : b.hsize < 128) :
    (entries (b.combine a c)).Perm (BitVec.ofNat 8 b.cnt :: entries b) :=
  offer_perm { b with
    nodes := setNode b.nodes (BitVec.ofNat 8 b.cnt)
      (Node.mkInternal ((nodeAt b.nodes a).nfreq + (nodeAt b.nodes c).nfreq) a c)
    cnt := b.cnt + 1 } _ h

/-- BUILD's working state with the symbols `ys` in its trees: `k` leaves and one internal slot for each entry the queue has
lost, so no slot past the 255th is ever taken (42 R167). -/
structure Growing (b : Builder) (ys : List Sym) : Prop where
  forest : Forest b.nodes (entries b) b.cnt ys
  arena : ArenaOk b.nodes b.cnt
  count : b.cnt + b.hsize = 2 * ys.length
  queue : b.hsize ≤ ys.length
  room : ys.length ≤ 128

theorem Growing.addLeaf {b : Builder} {ys : List Sym} (h : Growing b ys) (hr : ys.length < 128) (y : Sym) (f : Word) :
    Growing (b.addLeaf y f) (y :: ys) := by
  have hcount := h.count
  have hqueue := h.queue
  have hc : b.cnt < 256 := by omega
  have hi := toNat_slot hc
  constructor
  · exact (h.forest.addLeaf hc y f).perm (entries_addLeaf b y f (by omega)).symm (.refl _)
  · exact (h.arena.mono (Nat.le_succ _)).setNode (nodeForm_mkLeaf y f) (by rw [hi]; exact Nat.lt_succ_self _)
  · simp only [Builder.addLeaf, cnt_offer, hsize_offer, List.length_cons]; omega
  · simp only [Builder.addLeaf, hsize_offer, List.length_cons]; omega
  · simpa using hr

theorem Growing.perm {b : Builder} {ys ys' : List Sym} (h : Growing b ys) (hy : ys.Perm ys') : Growing b ys' :=
  ⟨h.forest.perm (.refl _) hy, h.arena, hy.length_eq ▸ h.count, hy.length_eq ▸ h.queue, hy.length_eq ▸ h.room⟩

/-- The leaf loop adds one leaf for each counted symbol from `y` on (42 R163). -/
theorem growing_addLeaves (freq : Sym → Word) (fuel y : Nat) {b : Builder} {ys : List Sym} (h : Growing b ys)
    (hy : ys.length ≤ y) (hf : y + fuel ≤ 128) :
    Growing (addLeaves freq fuel y b)
      (ys ++ ((List.range' y fuel).map (BitVec.ofNat 7)).filter (fun z => decide (freq z ≠ 0#32))) := by
  induction fuel generalizing y b ys with
  | zero => simpa [addLeaves] using h
  | succ fuel ih =>
    rw [addLeaves, List.range'_succ, List.map_cons]
    by_cases h0 : freq (BitVec.ofNat 7 y) = 0#32
    · rw [if_pos h0, List.filter_cons_of_neg (by simpa using h0)]
      exact ih (y + 1) h (by omega) (by omega)
    · rw [if_neg h0, List.filter_cons_of_pos (by simpa using h0)]
      exact (ih (y + 1) (h.addLeaf (by omega) _ _) (by simpa using hy) (by omega)).perm List.perm_middle.symm

/-- Once every leaf is offered, the trees' symbols are the counted ones (42 R163, R166). -/
theorem growing_leavesOffered (s : State) : Growing s.leavesOffered (countedSyms s) := by
  have h0 : Growing { nodes := zeroNodes, cnt := 0, heap := s.heap, hsize := 0 } [] :=
    ⟨forest_empty _, arenaOk_zero 0, rfl, Nat.le_refl _, Nat.zero_le _⟩
  have := growing_addLeaves s.freqAt 128 0 h0 (Nat.zero_le _) (Nat.le_refl _)
  rwa [List.nil_append, ← List.range_eq_range'] at this

theorem Growing.combine {b : Builder} {ys : List Sym} {a c : Slot} (hf : Forest b.nodes (a :: c :: entries b) b.cnt ys)
    (ha : ArenaOk b.nodes b.cnt) (hc : b.cnt + b.hsize + 2 = 2 * ys.length) (hq : b.hsize + 2 ≤ ys.length)
    (hr : ys.length ≤ 128) : Growing (b.combine a c) ys := by
  have hlt : b.cnt < 256 := by omega
  have hi := toNat_slot hlt
  constructor
  · exact (hf.combine hlt _).perm (entries_combine b a c (by omega)).symm (.refl _)
  · exact (ha.mono (Nat.le_succ _)).setNode (nodeForm_mkInternal _ a c) (by rw [hi]; exact Nat.lt_succ_self _)
  · simp only [Builder.combine, cnt_offer, hsize_offer]; omega
  · simp only [Builder.combine, hsize_offer]; omega
  · exact hr

/-- What the main loop of BUILD leaves: one tree, with every symbol, in the first `2k - 1` slots (42 R166, R167). -/
structure Built (root : Slot) (b : Builder) (ys : List Sym) : Prop where
  forest : Forest b.nodes [root] b.cnt ys
  arena : ArenaOk b.nodes b.cnt
  count : b.cnt + 1 = 2 * ys.length
  room : ys.length ≤ 128

/-- The main loop of BUILD ends with one tree when the queue is not empty (42 R166, R167). -/
theorem buildLoop_built {fuel : Nat} {b : Builder} {ys : List Sym} (h : Growing b ys) (h0 : 0 < b.hsize)
    (hf : b.hsize ≤ fuel) : ∃ root b', buildLoop fuel b = some (root, b') ∧ Built root b' ys := by
  induction fuel generalizing b with
  | zero => omega
  | succ fuel ih =>
    have hcount := h.count
    have hqueue := h.queue
    have hroom := h.room
    have hp1 := poll_perm b h0 (by omega)
    rw [buildLoop, if_neg (by omega)]
    by_cases h1 : b.poll.2.hsize = 0
    · refine ⟨b.poll.1, b.poll.2, if_pos h1, ?_, h.arena, ?_, hroom⟩
      · rw [entries_eq b.poll.2, h1] at hp1
        exact h.forest.perm hp1 (.refl _)
      · rw [hsize_poll] at h1
        rw [cnt_poll]
        omega
    · have h1' : 0 < b.poll.2.hsize := Nat.pos_of_ne_zero h1
      have hp2 := poll_perm b.poll.2 h1' (by rw [hsize_poll]; omega)
      rw [hsize_poll] at h1'
      simp only [if_neg h1]
      refine ih (Growing.combine ?_ h.arena ?_ ?_ hroom) (Nat.succ_pos _) ?_
      · exact h.forest.perm (hp1.trans (hp2.cons _)) (.refl _)
      · simp only [cnt_poll, hsize_poll]; omega
      · simp only [hsize_poll]; omega
      · simp only [hsize_combine, hsize_poll]; omega

/-- A queue with a counted symbol in its trees is not empty. -/
theorem Growing.hsize_pos {b : Builder} {ys : List Sym} (h : Growing b ys) (hy : ys ≠ []) : 0 < b.hsize := by
  rw [Nat.pos_iff_ne_zero]
  intro h0
  have hf := h.forest
  rw [entries_eq, h0] at hf
  exact hy hf.symbols_nil

theorem nodup_countedSyms (s : State) : (countedSyms s).Nodup := by
  refine List.Nodup.filter _ (List.Nodup.map_on ?_ List.nodup_range)
  intro x hx y hy h
  have := congrArg BitVec.toNat h
  simp only [BitVec.toNat_ofNat, List.mem_range] at this hx hy
  omega

/-- One tree of distinct symbols is what TREE_VALID promises (10 R62). -/
theorem Built.treeOk {root : Slot} {b : Builder} {ys : List Sym} (h : Built root b ys) (hn : ys.Nodup) :
    TreeOk b.nodes root b.cnt := by
  obtain ⟨ts, ht, hs, hm⟩ := h.forest
  obtain ⟨p, us, hp, htail, rfl⟩ := List.forall₂_cons_left_iff.1 ht
  obtain rfl := List.forall₂_nil_left_iff.1 htail
  rw [List.flatMap_cons, List.flatMap_nil, List.append_nil] at hs hm
  exact hp.treeOk hs (hm.nodup_iff.2 hn)

/-- BUILD succeeds where a symbol is counted, with a tree of the counted symbols (42 R166). -/
theorem build_built {s : State} (h : countedSyms s ≠ []) :
    ∃ root b, buildLoop s.leavesOffered.hsize s.leavesOffered = some (root, b) ∧ Built root b (countedSyms s) :=
  buildLoop_built (growing_leavesOffered s) ((growing_leavesOffered s).hsize_pos h) (Nat.le_refl _)

/-- Whatever tree BUILD installs is one of the counted symbols. -/
theorem built_of_buildLoop {s : State} {root : Slot} {b : Builder}
    (h : buildLoop s.leavesOffered.hsize s.leavesOffered = some (root, b)) : Built root b (countedSyms s) := by
  by_cases hc : countedSyms s = []
  · have h0 : s.leavesOffered.hsize = 0 := by simpa [hc] using (growing_leavesOffered s).queue
    rw [h0] at h
    cases h
  · obtain ⟨root', b', e, hb⟩ := build_built hc
    rw [h] at e
    cases e
    exact hb

end Sys2Proof.Safety
end

section
/-! DESER's parse hangs its tree from the first slot it takes (46 R213, R215). -/
namespace Sys2Proof.Safety
open Sys2Proof.Machine

/-- What a leaf of the artifact adds (46 R213). -/
theorem parseLeaf_ok {rd : Nat → Byte} {len : Nat} {i i' : Slot} {q q' : ParseState}
    (h : parseLeaf rd len i q = .ok (i', q')) :
    ∃ y, y ∉ q.seen ∧ i' = i ∧
      q' = { q with p := q.p + 1, seen := y :: q.seen, nodes := setNode q.nodes i (Node.mkLeaf y 0#32) } := by
  unfold parseLeaf at h
  split at h
  · cases h
  · split at h
    · cases h
    · simp only at h
      split at h
      · cases h
      · rename_i hy
        cases h
        exact ⟨_, hy, rfl, rfl⟩

/-- A parse that succeeds has read a leaf, or an internal marker and its two subtrees (46 R210, R213). -/
theorem parse_ok {rd : Nat → Byte} {len fuel : Nat} {i : Slot} {q q' : ParseState}
    (h : parse rd len (fuel + 1) q = .ok (i, q')) : i = BitVec.ofNat 8 q.cnt ∧ q.cnt ≠ 255 ∧
    ((∃ y, y ∉ q.seen ∧
      q' = { p := q.p + 2, cnt := q.cnt + 1, seen := y :: q.seen, nodes := setNode q.nodes i (Node.mkLeaf y 0#32) }) ∨
    ∃ l q2 r q3, parse rd len fuel { q with p := q.p + 1, cnt := q.cnt + 1 } = .ok (l, q2) ∧
      parse rd len fuel q2 = .ok (r, q3) ∧
      q' = { q3 with nodes := setNode q3.nodes i (Node.mkInternal 0#32 l r) }) := by
  rw [parse] at h
  split at h
  · cases h
  · split at h
    · cases h
    · split at h
      · cases h
      · rename_i h255
        simp only at h
        split at h
        · obtain ⟨y, hy, rfl, rfl⟩ := parseLeaf_ok h
          exact ⟨rfl, h255, .inl ⟨y, hy, rfl⟩⟩
        · split at h
          · cases h
          · rename_i l q2 h2
            split at h
            · cases h
            · rename_i r q3 h3
              cases h
              exact ⟨rfl, h255, .inr ⟨l, q2, r, q3, h2, h3, rfl⟩⟩

/-- A parse state as every call of `parse()` finds it: no slot past the allocated ones is written, no symbol seen twice. -/
structure ParseInv (q : ParseState) : Prop where
  arena : ArenaOk q.nodes q.cnt
  seen : q.seen.Nodup
  small : q.cnt ≤ 255

/-- What a call of `parse()` that returns slot `i` has done: it took the next slots, in pre-order, for a tree whose symbols
it has now seen, and left the slots taken before. -/
structure Parsed (q : ParseState) (i : Slot) (q' : ParseState) : Prop where
  inv : ParseInv q'
  tree : ∃ t n, q'.cnt = q.cnt + n ∧ Hangs q'.nodes i t (List.range' q.cnt n) ∧ q'.seen.Perm (t.symbols ++ q.seen)
  old : ∀ j : Slot, j.toNat < q.cnt → nodeAt q'.nodes j = nodeAt q.nodes j

theorem parsed_leaf {q : ParseState} {y : Sym} (h : ParseInv q) (h255 : q.cnt ≠ 255) (hy : y ∉ q.seen) :
    Parsed q (BitVec.ofNat 8 q.cnt)
      { p := q.p + 2, cnt := q.cnt + 1, seen := y :: q.seen,
        nodes := setNode q.nodes (BitVec.ofNat 8 q.cnt) (Node.mkLeaf y 0#32) } := by
  have hsmall := h.small
  have hi : (BitVec.ofNat 8 q.cnt).toNat = q.cnt := toNat_slot (by omega)
  refine ⟨⟨?_, List.nodup_cons.2 ⟨hy, h.seen⟩, by simp only; omega⟩, ⟨.leaf y, 1, rfl, ?_, .refl _⟩, ?_⟩
  · exact (h.arena.mono (Nat.le_succ _)).setNode (nodeForm_mkLeaf y _) (by rw [hi]; exact Nat.lt_succ_self _)
  · have := hangs_mkLeaf q.nodes (BitVec.ofNat 8 q.cnt) y 0#32
    rwa [hi] at this
  · intro j hj
    rw [nodeAt_setNode, if_neg (by rintro rfl; omega)]

theorem parsed_node {q q2 q3 : ParseState} {l r : Slot} (h : ParseInv q)
    (hl : Parsed { q with p := q.p + 1, cnt := q.cnt + 1 } l q2) (hr : Parsed q2 r q3) :
    Parsed q (BitVec.ofNat 8 q.cnt)
      { q3 with nodes := setNode q3.nodes (BitVec.ofNat 8 q.cnt) (Node.mkInternal 0#32 l r) } := by
  have hsmall := h.small
  have hi : (BitVec.ofNat 8 q.cnt).toNat = q.cnt := toNat_slot (by omega)
  obtain ⟨tl, n, hn, htl, hsl⟩ := hl.tree
  obtain ⟨tr, m, hm, htr, hsr⟩ := hr.tree
  simp only at hn htl hsl
  have htl3 : Hangs q3.nodes l tl (List.range' (q.cnt + 1) n) := htl.congr fun j hj => hr.old j (by
    have := List.mem_range'_1.1 hj
    omega)
  refine ⟨⟨?_, hr.inv.seen, hr.inv.small⟩, ⟨.node tl tr, n + m + 1, by simp only; omega, ?_, ?_⟩, ?_⟩
  · exact hr.inv.arena.setNode (nodeForm_mkInternal _ l r) (by rw [hi]; omega)
  · have := hangs_mkInternal (i := BitVec.ofNat 8 q.cnt) 0#32 htl3 htr (by rw [hi, List.mem_range'_1]; omega)
      (by rw [hi, List.mem_range'_1]; omega)
    rwa [hi, hn, List.range'_append_1, ← List.range'_succ] at this
  · refine hsr.trans ((hsl.append_left tr.symbols).trans ?_)
    rw [Tree.symbols, ← List.append_assoc]
    exact List.perm_append_comm.append_right _
  · intro j hj
    rw [nodeAt_setNode, if_neg (by rintro rfl; omega), hr.old j (by omega)]
    exact hl.old j (Nat.lt_succ_of_lt hj)

theorem parse_parsed {rd : Nat → Byte} {len fuel : Nat} {i : Slot} {q q' : ParseState} (h : ParseInv q)
    (hp : parse rd len fuel q = .ok (i, q')) : Parsed q i q' := by
  induction fuel generalizing i q q' with
  | zero => cases hp
  | succ fuel ih =>
    obtain ⟨rfl, h255, ⟨y, hy, rfl⟩ | ⟨l, q2, r, q3, h2, h3, rfl⟩⟩ := parse_ok hp
    · exact parsed_leaf h h255 hy
    · have hsmall := h.small
      have hl := ih (q := { q with p := q.p + 1, cnt := q.cnt + 1 })
        ⟨h.arena.mono (Nat.le_succ _), h.seen, by simp only; omega⟩ h2
      exact parsed_node h hl (ih hl.inv h3)

/-- DESER's tree hangs from slot 0 and takes the slots below NODE_CNT (46 R215). -/
theorem parseTree_treeOk {s : State} {i : Slot} {q : ParseState} (h : s.parseTree = .ok (i, q)) :
    TreeOk q.nodes 0#8 q.cnt ∧ ArenaOk q.nodes q.cnt := by
  obtain rfl : i = 0#8 := (parse_ok h).1
  have h0 : ParseInv { p := 0, cnt := 0, seen := [], nodes := zeroNodes } :=
    ⟨arenaOk_zero 0, List.nodup_nil, Nat.zero_le _⟩
  obtain ⟨hinv, ⟨t, n, hn, ht, hs⟩, -⟩ := parse_parsed h0 h
  simp only [Nat.zero_add, List.append_nil] at hn ht hs
  rw [← List.range_eq_range', ← hn] at ht
  exact ⟨ht.treeOk (.refl _) (hs.nodup_iff.1 hinv.seen), hinv.arena⟩

end Sys2Proof.Safety
end

section
/-! The tree and the code table keep what TREE_VALID and CODES_VALID promise (10 R62, R63), and every command completes. -/
namespace Sys2Proof.Safety
open Sys2Proof.Machine

/-! ### The tree -/

theorem ArenaOk.getElem_form {nodes : Vector Node 256} {cnt : Nat} (h : ArenaOk nodes cnt) (i : Nat) (hi : i < 256) :
    NodeForm nodes[i] :=
  nodeAt_ofNat nodes hi ▸ h.form _

theorem ArenaOk.getElem_unallocated {nodes : Vector Node 256} {cnt : Nat} (h : ArenaOk nodes cnt) (i : Nat)
    (hi : i < 256) (hc : cnt ≤ i) : nodes[i] = Node.zero :=
  nodeAt_ofNat nodes hi ▸ h.unallocated _ (by rwa [toNat_slot hi])

/-- A valid tree (10 R62). -/
theorem treeInv_valid {s : State} (hv : s.treeValid = true) (hp : s.pending ≠ .init)
    (hok : TreeOk s.nodes s.root s.nodeCnt.toNat) (ha : ArenaOk s.nodes s.nodeCnt.toNat) : TreeInv s where
  ok _ := hok
  none h := absurd (hv.symm.trans h) (by decide)
  init h := absurd h hp
  unallocated _ := ha.getElem_unallocated
  form := ha.getElem_form

/-- No tree (10 R52, R62). -/
theorem treeInv_cleared {s : State} (hv : s.treeValid = false) (hn : s.nodes = zeroNodes) (hr : s.root = 0#8)
    (hc : s.nodeCnt = 0#9) : TreeInv s where
  ok h := absurd (hv.symm.trans h) (by decide)
  none _ := ⟨hr, hc⟩
  init _ := hv
  unallocated _ i hi _ := by simp [hn]
  form i hi := by
    simp only [hn, getElem_zeroNodes]
    exact Node.zero_form

/-- While INIT is not pending, only NODE, ROOT, NODE_CNT and TREE_VALID matter. -/
theorem treeInv_of_same {s t : State} (h : TreeInv s) (hs : s.pending ≠ .init) (ht : t.pending ≠ .init)
    (hsame : Piece.tree.same s t) : TreeInv t := by
  obtain ⟨hn, hr, hc, hv⟩ := hsame
  refine ⟨?_, ?_, fun h => absurd h ht, fun _ => ?_, ?_⟩
  · rw [hv, hn, hr, hc]; exact h.ok
  · rw [hv, hr, hc]; exact h.none
  · rw [hn, hc]; exact h.unallocated hs
  · rw [hn]; exact h.form

/-- NODE_CNT holds every number of slots that a tree takes (10 R45). -/
theorem toNat_nodeCnt {n : Nat} (h : n ≤ 255) : (BitVec.ofNat 9 n).toNat = n := by
  simp only [BitVec.toNat_ofNat]
  omega

theorem treeInv_effect {i : Instr} {s u : State} (hp : s.pending ≠ .init) (h : TreeInv s) (he : Effect i s u) :
    TreeInv u := by
  have hframe := effect_frame he
  have hpu : u.pending ≠ .init := by rwa [he.pending]
  cases he with
  | nothing => exact h
  | softReset | dropTree => exact treeInv_cleared rfl rfl rfl rfl
  | installTree s root b hb =>
    have hbuilt := built_of_buildLoop hb
    have hok := hbuilt.treeOk (nodup_countedSyms s)
    have hcnt := toNat_nodeCnt hok.small
    exact treeInv_valid rfl hpu (hcnt.symm ▸ hok) (hcnt.symm ▸ hbuilt.arena)
  | parsedTree s i q hq =>
    obtain ⟨hok, ha⟩ := parseTree_treeOk hq
    have hcnt := toNat_nodeCnt hok.small
    exact treeInv_valid rfl hpu (hcnt.symm ▸ hok) (hcnt.symm ▸ ha)
  | _ => exact treeInv_of_same h hp hpu (hframe .tree (by simp [mayWrite]))

theorem treeInv_written {s u : State} {l : Loc} {d : Word} (hv : s.violates l = false) (h : TreeInv s)
    (hw : Written s d l u) : TreeInv u := by
  cases hw with
  | command => exact treeInv_of_same h (by simp [idle_of_free hv rfl]) nofun ⟨rfl, rfl, rfl, rfl⟩
  | _ => exact ⟨h.ok, h.none, h.init, h.unallocated, h.form⟩

theorem treeInv_keptByStep : KeptByStep TreeInv where
  env _ _ _ h := ⟨h.ok, h.none, h.init, h.unallocated, h.form⟩
  init hp h := treeInv_cleared (h.init hp) rfl (h.none (h.init hp)).1 (h.none (h.init hp)).2
  effect := treeInv_effect
  done _ hp h := treeInv_of_same h hp nofun ⟨rfl, rfl, rfl, rfl⟩
  raise hp _ h := treeInv_of_same h hp nofun ⟨rfl, rfl, rfl, rfl⟩
  violation h := ⟨h.ok, h.none, h.init, h.unallocated, h.form⟩
  write _ hv := treeInv_written hv
  release h := ⟨nofun, fun _ => ⟨rfl, rfl⟩, fun _ => rfl, fun h => absurd rfl h, h.form⟩

/-- Settles O12: BUILD and DESER install a tree, SRST and a failing DESER clear it, and nothing else writes it. -/
theorem stepKeepsTree : Obligations.StepKeepsTree := fun _ _ h hs => treeInv_keptByStep.step h hs

/-! ### The code table -/

/-- The bits of an entry past its length are 0 (10 R54). -/
def Padded (e : CodeEntry) : Prop := ∀ j, e.clen.toNat ≤ j → e.cbits.getLsbD j = false

/-- The walk of CODEGEN sets path bits below the depth only, and no depth exceeds 127 (43 R175). -/
theorem codes_padded {nodes : Vector Node 256} {fuel d : Nat} {i : Slot} {t : Tree} {p : BitVec 128}
    (h : readTree nodes fuel i = some t) (hd : d + fuel ≤ 128) (hp : ∀ j, d ≤ j → p.getLsbD j = false) :
    ∀ e ∈ t.codes p d, Padded e.2 := by
  induction fuel generalizing d i t p with
  | zero => simp [readTree] at h
  | succ fuel ih =>
    cases hl : (nodeAt nodes i).leaf with
    | true =>
      rw [readTree, hl] at h
      simp only [if_true, Option.some.injEq] at h
      subst h
      rw [Tree.codes]
      simp only [List.mem_singleton, forall_eq]
      split
      · intro j hj
        have : j ≠ 0 := by rintro rfl; exact absurd hj (by decide)
        simp [this]
      · intro j hj
        simp only [BitVec.toNat_ofNat] at hj
        exact hp j (by omega)
    | false =>
      obtain ⟨l, r, e1, e2, rfl⟩ := readTree_node h hl
      rw [Tree.codes]
      intro e he
      rcases List.mem_append.1 he with he | he
      · exact ih e1 (by omega) (fun j hj => hp j (by omega)) e he
      · refine ih e2 (by omega) (fun j hj => ?_) e he
        have h0 : ¬ (j - d = 0) := by omega
        simp [hp j (by omega), h0]

theorem writeCodes_padded {es : List (Sym × CodeEntry)} {v : Vector CodeEntry 128} (he : ∀ e ∈ es, Padded e.2)
    (hv : ∀ i (h : i < 128), Padded v[i]) : ∀ i (h : i < 128), Padded (writeCodes es v)[i] := by
  induction es generalizing v with
  | nil => exact hv
  | cons e es ih =>
    obtain ⟨y, c⟩ := e
    refine ih (fun e h => he e (List.mem_cons_of_mem _ h)) fun i hi => ?_
    rw [Vector.getElem_set]
    split
    · exact he _ List.mem_cons_self
    · exact hv i hi

theorem codeTable_padded {s : State} {t : Tree} (h : s.tree? = some t) (i : Nat) (hi : i < 128) :
    Padded t.codeTable[i] :=
  writeCodes_padded (codes_padded (readTree_of_tree? h).1 (Nat.le_refl _) (by simp))
    (fun i hi j _ => by simp) i hi

/-- No codes are promised. -/
theorem codeInv_invalid {s : State} (hv : s.codesValid = false) (hp : ∀ i (h : i < 128), Padded s.code[i]) : CodeInv s :=
  ⟨hp, fun h => absurd (hv.symm.trans h) (by decide)⟩

theorem padded_zero {s : State} (h : s.code = zeroCode) (i : Nat) (hi : i < 128) : Padded s.code[i] := by
  intro j _
  simp [h]

theorem codeInv_effect {i : Instr} {s u : State} (h : CodeInv s) (he : Effect i s u) : CodeInv u := by
  cases he with
  | softReset => exact codeInv_invalid rfl (padded_zero rfl)
  | installTree | dropTree | parsedTree => exact codeInv_invalid rfl h.pad
  | installCodes s t hv ht => exact ⟨codeTable_padded ht, fun _ => ⟨hv, t, ht, rfl⟩⟩
  | _ => exact ⟨h.pad, h.valid⟩

theorem codeInv_written {s u : State} {l : Loc} {d : Word} (h : CodeInv s) (hw : Written s d l u) : CodeInv u := by
  cases hw <;> exact ⟨h.pad, h.valid⟩

/-- While INIT is pending there is no tree, so there are no codes either (10 R63). -/
theorem codesValid_init {s : State} (ht : TreeInv s) (hc : CodeInv s) (hp : s.pending = .init) : s.codesValid = false := by
  rw [← Bool.not_eq_true]
  intro h
  exact absurd ((hc.valid h).1.symm.trans (ht.init hp)) (by decide)

theorem codeInv_keptByStep : KeptByStep (fun s => TreeInv s ∧ CodeInv s) where
  env q r x h := ⟨treeInv_keptByStep.env q r x h.1, h.2.pad, h.2.valid⟩
  init hp h := ⟨treeInv_keptByStep.init hp h.1, codeInv_invalid (codesValid_init h.1 h.2 hp :) (padded_zero rfl)⟩
  effect hp h he := ⟨treeInv_keptByStep.effect hp h.1 he, codeInv_effect h.2 he⟩
  done r hp h := ⟨treeInv_keptByStep.done r hp h.1, h.2.pad, h.2.valid⟩
  raise hp hr h := ⟨treeInv_keptByStep.raise hp hr h.1, h.2.pad, h.2.valid⟩
  violation h := ⟨treeInv_keptByStep.violation h.1, h.2.pad, h.2.valid⟩
  write ht hv h hw := ⟨treeInv_keptByStep.write ht hv h.1 hw, codeInv_written h.2 hw⟩
  release h := ⟨treeInv_keptByStep.release h.1, codeInv_invalid rfl h.2.pad⟩

/-- Settles O13, together with the tree: CODEGEN writes the table of the current one, and whatever rewrites the tree clears
CODES_VALID. -/
theorem stepKeepsCodes : Obligations.StepKeepsCodes := fun _ _ ht hc hs => (codeInv_keptByStep.step ⟨ht, hc⟩ hs).2

/-! ### Every command completes -/

/-- DISTINCT counts the counted symbols, so BUILD has a leaf to start from (42 R166). -/
theorem countedSyms_ne_nil {s : State} (hc : CountInv s) (hp : s.pending ≠ .init) (hd : s.distinct ≠ 0#8) :
    countedSyms s ≠ [] := by
  have hpos : 0 < s.freq.toList.countP (fun f => decide (f ≠ 0#32)) := by
    rw [← hc.distinct hp, Nat.pos_iff_ne_zero]
    exact fun h => hd (BitVec.eq_of_toNat_eq h)
  obtain ⟨f, hf, h0⟩ := List.countP_pos_iff.1 hpos
  obtain ⟨k, hk, rfl⟩ := Vector.mem_iff_getElem.1 (Vector.mem_toList_iff.1 hf)
  have hfk : s.freqAt (BitVec.ofNat 7 k) = s.freq[k] := by
    unfold State.freqAt
    congr 1
    simp only [BitVec.toNat_ofNat]
    omega
  refine List.ne_nil_of_mem (a := BitVec.ofNat 7 k) (List.mem_filter.2 ⟨List.mem_map_of_mem (List.mem_range.2 hk), ?_⟩)
  rwa [hfk]

theorem execBuild_completes {s : State} (hc : CountInv s) (hp : s.pending ≠ .init) : ∃ t, execBuild s = .next t := by
  unfold execBuild
  split
  · exact ⟨_, rfl⟩
  · rename_i hd
    obtain ⟨root, b, hb, -⟩ := build_built (countedSyms_ne_nil hc hp hd)
    rw [hb]
    exact ⟨_, rfl⟩

theorem execCodegen_completes {s : State} (ht : TreeInv s) : ∃ t, execCodegen s = .next t := by
  unfold execCodegen
  split
  · rename_i hv
    obtain ⟨t, htr, -⟩ := tree?_of_ok (ht.ok hv)
    rw [htr]
    exact ⟨_, rfl⟩
  · exact ⟨_, rfl⟩

theorem execSer_completes {s : State} (ht : TreeInv s) : ∃ t, execSer s = .next t := by
  unfold execSer
  split
  · rename_i hv
    obtain ⟨t, htr, -⟩ := tree?_of_ok (ht.ok hv)
    rw [htr]
    exact ⟨_, rfl⟩
  · exact ⟨_, rfl⟩

theorem execFreqAdd_completes (c : Nat) (s : State) : ∃ t, execFreqAdd c s = .next t := by
  unfold execFreqAdd
  split
  · exact ⟨_, rfl⟩
  · split <;> exact ⟨_, rfl⟩

theorem execBbCreate_completes (n : Nat) (s : State) : ∃ t, execBbCreate n s = .next t := by
  unfold execBbCreate
  split <;> exact ⟨_, rfl⟩

theorem execEncChar_completes (c : Nat) (s : State) : ∃ t, execEncChar c s = .next t := by
  unfold execEncChar
  split <;> exact ⟨_, rfl⟩

/-- Settles O15: only BUILD, CODEGEN and SER could stop, and each finds in the invariants what it needs. -/
theorem everyCommandCompletes : Obligations.EveryCommandCompletes := by
  intro s i hc ht hp
  cases i with
  | build => exact execBuild_completes hc hp
  | codegen => exact execCodegen_completes ht
  | ser => exact execSer_completes ht
  | freqAdd c => exact execFreqAdd_completes c s
  | bbCreate n => exact execBbCreate_completes n s
  | encChar c => exact execEncChar_completes c s
  | _ => exact ⟨_, rfl⟩

end Sys2Proof.Safety
end

section
/-! The schedule gives the engine its turn (70 R287), and what a step and the pin do (10 R30, 70 R270). -/
namespace Sys2Proof.Safety
open Sys2Proof.Machine

theorem busy_iff {s : State} : s.busy = true ↔ s.pending ≠ .idle := by simp [State.busy]

/-- Out of reset every host operation has a meaning. -/
theorem hostOp_next {s : State} (hr : s.rstN = true) (op : HostOp) : ∃ t, hostOp s op = .next t := by
  cases op <;> simp [hostOp, hr]

/-- No free write touches the schedule or the pin, and while BUSY none touches the pending action (70 R282). -/
theorem written_busy {s u : State} {l : Loc} {d : Word} (hb : s.busy = true) (hv : s.violates l = false)
    (hw : Written s d l u) : u.pending = s.pending ∧ u.rstN = s.rstN ∧ u.sched = s.sched := by
  cases hw with
  | command => exact absurd (idle_of_free hv rfl) (busy_iff.1 hb)
  | _ => exact ⟨rfl, rfl, rfl⟩

theorem busWrite_busy {s : State} (a : Offset) (d : Word) (hb : s.busy = true) :
    (s.busWrite a d).2.pending = s.pending ∧ (s.busWrite a d).2.rstN = s.rstN ∧ (s.busWrite a d).2.sched = s.sched := by
  rcases s.busWrite_state a d with e | ⟨-, e⟩ | ⟨l, -, hv, e⟩ <;> rw [e]
  · exact ⟨rfl, rfl, rfl⟩
  · exact ⟨rfl, rfl, rfl⟩
  · exact written_busy hb hv (s.writeLoc_written d l)

theorem busRead_busy (s : State) (a : Offset) :
    (s.busRead a).2.pending = s.pending ∧ (s.busRead a).2.rstN = s.rstN ∧ (s.busRead a).2.sched = s.sched := by
  rcases s.busRead_state a with e | ⟨-, e⟩ <;> rw [e] <;> exact ⟨rfl, rfl, rfl⟩

/-- While BUSY and out of reset, a host operation but for `rstLow` leaves the pending action, the pin and the schedule. -/
theorem hostOp_busy {s t : State} {op : HostOp} (h : hostOp s op = .next t) (hb : s.busy = true) (hr : s.rstN = true)
    (hop : op ≠ .rstLow) : t.pending = s.pending ∧ t.rstN = s.rstN ∧ t.sched = s.sched := by
  rcases hostOp_cases h with ⟨a, d, -, -, rfl⟩ | ⟨a, -, -, rfl⟩ | ⟨-, -, rfl⟩ | ⟨e, -⟩ | ⟨-, -, rfl⟩ | ⟨-, e, -⟩
  · simpa [State.hostWrite] using busWrite_busy a d hb
  · simpa [State.hostRead] using busRead_busy s a
  · rw [State.hostWait, State.busRead_status]
    simp only
    split <;> exact ⟨rfl, rfl, rfl⟩
  · exact absurd e hop
  · exact ⟨rfl, rfl, rfl⟩
  · exact absurd (hr.symm.trans e) (by decide)

/-- A step that is not the engine's, on a pending action out of reset: the host moves, one host step fewer is left, and the
action stays. -/
theorem step_of_hostTurn {s : State} (hr : s.rstN = true) (hp : s.pending ≠ .idle)
    (hlow : ∀ op ∈ s.host.program.drop s.host.index, op ≠ .rstLow) (hturn : s.engineTurn = false) :
    ∃ t, step s = .next t ∧ t.rstN = true ∧ t.pending = s.pending ∧ t.sched.left + 1 = s.sched.left ∧
      t.host.program = s.host.program ∧ s.host.index ≤ t.host.index := by
  have hb := busy_iff.2 hp
  simp only [State.engineTurn, hr, hb, Bool.and_self, Bool.true_and, Bool.or_eq_false_iff,
    decide_eq_false_iff_not] at hturn
  obtain ⟨hn, hleft⟩ := hturn
  obtain ⟨op, hop⟩ : ∃ op, s.nextOp = some op := Option.isSome_iff_exists.1 (by simpa using hn)
  have hmem : op ∈ s.host.program.drop s.host.index := by
    rw [List.mem_iff_getElem?]
    exact ⟨0, by rw [List.getElem?_drop]; exact hop⟩
  obtain ⟨t, ht⟩ := hostOp_next (s := { s with sched := s.sched.tick }) hr op
  obtain ⟨h1, h2, h3⟩ := hostOp_busy ht hb hr (hlow op hmem)
  obtain ⟨h4, h5⟩ := hostOp_host ht
  refine ⟨t, ?_, h2.trans hr, h1, ?_, h4, by rcases h5 with h5 | h5 <;> rw [h5]; exact Nat.le_succ _⟩
  · have : s.engineTurn = false := by simp [State.engineTurn, hop, hleft]
    rw [step, this, if_neg Bool.false_ne_true, hostStep, hop]
    simp only [hr, hb, Bool.and_self, if_true]
    exact hr ▸ ht
  · rw [h3, Schedule.left_tick]
    omega

/-- Settles O7, by induction on the host steps that the schedule still lets go. -/
theorem engineMovesInBoundedSteps : Obligations.EngineMovesInBoundedSteps := by
  intro s
  induction hn : s.sched.left generalizing s with
  | zero =>
    intro hr hp _
    exact ⟨0, s, Nat.le_refl _, rfl, by simp [State.engineTurn, hr, busy_iff.2 hp, hn], rfl⟩
  | succ n ih =>
    intro hr hp hlow
    cases hturn : s.engineTurn with
    | true => exact ⟨0, s, Nat.zero_le _, rfl, hturn, rfl⟩
    | false =>
      obtain ⟨t, hst, hr', hp', hl, hprog, hidx⟩ := step_of_hostTurn hr hp hlow hturn
      have hlow' : ∀ op ∈ t.host.program.drop t.host.index, op ≠ .rstLow := fun op hop =>
        hlow op (List.drop_subset_drop_left _ hidx (hprog ▸ hop))
      obtain ⟨k, u, hk, hrun, hu, hpu⟩ := ih t (by omega) hr' (hp' ▸ hp) hlow'
      refine ⟨k + 1, u, Nat.succ_le_succ hk, ?_, hu, hpu.trans hp'⟩
      rw [runSteps, hst]
      exact hrun

theorem engineStep_command {s : State} {w : Word} (hp : s.pending = .command w) :
    engineStep s = runWord w { s with sched := s.sched.pop } := by
  simp only [engineStep, hp]

/-- Settles O5: the engine's turn runs the pending word, and without BUSY or in reset the turn is the host's. -/
theorem stepRunsPendingWord : Obligations.StepRunsPendingWord := by
  refine ⟨fun s w i ht hp hd => ?_, fun s w e ht hp hd => ?_, fun s h => ?_⟩
  · rw [step, if_pos ht, engineStep_command hp, runWord, hd]
  · rw [step, if_pos ht, engineStep_command hp, runWord, hd]
  · have : s.engineTurn = false := by
      rcases h with h | h <;> simp [State.engineTurn, State.busy, h]
    rw [step, this, if_neg Bool.false_ne_true]

/-- Every register that holds a value is 0 after reset (10 R65). -/
theorem readReg_reset {s : State} (p : Params) (hs : ∀ r, s.readReg r = (State.resetWith p).readReg r) (r : Reg)
    (hr : r ∉ [Reg.id, .status, .cartCap, .outCap]) : s.readReg r = 0#32 := by
  rw [hs]
  cases r with
  | id | status | cartCap | outCap => exact absurd (by decide) hr
  | err => simp [State.readReg, State.errWord, State.resetWith, ErrCode.byte]
  | ctrl => simp [State.readReg, State.ctrlWord, State.resetWith, bit0]
  | _ => rfl

/-- Only BUSY reads 1 (10 R65). -/
theorem statusWord_reset (p : Params) : (State.resetWith p).statusWord = 1#32 := by
  simp [State.statusWord, State.busy, State.errAny, State.irq, State.resetWith, ErrCode.byte, bit0]

/-- Settles O8: the edge of the pin leads to the state after reset, but for the tables, HEAP and the environment. -/
theorem resetPin : Obligations.ResetPin := by
  refine ⟨fun p => ⟨rfl, statusWord_reset p, rfl, readReg_reset p fun _ => rfl⟩, fun s hs => ?_, fun s a d hs => ?_⟩
  · refine ⟨s.release.hostAdvance, by simp [hostOp, hs], rfl, rfl, statusWord_reset s.params, rfl, rfl,
      readReg_reset s.params fun r => by cases r <;> rfl, fun m a => ?_, rfl⟩
    cases m <;> rfl
  · simp [hostOp, hs]

end Sys2Proof.Safety
end

section
/-! What the bus reads and writes at the registers and the table windows (10 R31 to R55, 20 R83, 70 R281). -/
namespace Sys2Proof.Machine

theorem State.busRead_of_target {s : State} {a : Offset} {l : Loc} (ht : s.target a = some l)
    (hv : s.violates l = false) : s.busRead a = (.word (s.readLoc l), s) := by
  simp [State.busRead, ht, hv]

theorem State.busWrite_of_target {s : State} {a : Offset} {l : Loc} (d : Word) (ht : s.target a = some l)
    (hv : s.violates l = false) : s.busWrite a d = (.ok, s.writeLoc d l) := by
  simp [State.busWrite, ht, hv]

theorem State.violates_of_idle {s : State} (h : s.pending = .idle) (l : Loc) : s.violates l = false := by
  simp [State.violates, State.busy, h]

theorem State.violates_of_ctl (s : State) {l : Loc} (h : l.isCtl = true) : s.violates l = false := by
  simp [State.violates, h]

theorem State.target_aligned (s : State) {a : Offset} (h : a.toNat % 4 = 0) :
    s.target a = locate s.params a.toNat := if_pos h

/-- An offset given as a number. -/
theorem State.target_ofNat (s : State) {n : Nat} (h : n < 2 ^ 18) (h4 : n % 4 = 0) :
    s.target (BitVec.ofNat 18 n) = locate s.params n := by
  have e : (BitVec.ofNat 18 n).toNat = n := by simp only [BitVec.toNat_ofNat]; omega
  rw [State.target_aligned _ (by rwa [e]), e]

/-- Which registers a write changes (10 R36 to R39, R46, R47, R66). -/
def Reg.writable : Reg → Bool
  | .cmd | .err | .ctrl | .irqStat | .treeLen | .cartLen => true
  | _ => false

theorem State.writeReg_readOnly (s : State) (d : Word) {r : Reg} (h : r.writable = false) : s.writeReg d r = s := by
  cases r with
  | cmd | err | ctrl | irqStat | treeLen | cartLen => exact absurd h (by decide)
  | _ => rfl

end Sys2Proof.Machine

namespace Sys2Proof.Safety
open Sys2Proof.Machine

/-- The register file (10 R32): the registers at the `ctl` offsets are the `ctl` group, and those at the six writable ones the
writable registers. -/
theorem locate_register (p : Params) {n : Nat} (h : n < 0x48) (h4 : n % 4 = 0) :
    ∃ r, locate p n = some (.reg r) ∧ (n ∈ ctlOffsets → (Loc.reg r).isCtl = true) ∧
      (n ∉ [0x008, 0x00C, 0x010, 0x014, 0x030, 0x034] → r.writable = false) := by
  rw [locate_reg p (by omega)]
  obtain ⟨k, rfl⟩ : ∃ k, n = 4 * k := ⟨n / 4, by omega⟩
  have hk : k < 18 := by omega
  clear h h4
  rw [Nat.mul_div_cancel_left k (by decide)]
  interval_cases k <;> exact ⟨_, rfl, by decide, by decide⟩

/-- What stands at a mapped aligned offset: `ctl` registers at the `ctl` offsets, and nothing writable at an offset that is
not writable (20 R83, 70 R281). -/
theorem locate_mapped {p : Params} {n : Nat} (hl : p.Legal) (h4 : n % 4 = 0) (hm : Mapped p n) :
    ∃ l, locate p n = some l ∧ (n ∈ ctlOffsets → l.isCtl = true) ∧
      (¬ Writable p n → ∀ (s : State) (d : Word), s.writeLoc d l = s) := by
  have hctl : n ∈ ctlOffsets → n < 0x48 := fun h => by
    simp only [ctlOffsets, List.mem_cons, List.not_mem_nil, or_false] at h
    omega
  rcases hm with h | ⟨h1, h2⟩ | ⟨h1, h2⟩ | ⟨h1, h2⟩ | h | h | ⟨h1, h2⟩
  · obtain ⟨r, e, hc, hw⟩ := locate_register p h h4
    exact ⟨_, e, hc, fun hn s d => s.writeReg_readOnly d (hw fun hmem => hn (.inl hmem))⟩
  · exact ⟨_, locate_freq p h1 h2, fun h => by have := hctl h; omega, fun _ _ _ => rfl⟩
  · exact ⟨_, locate_node p h1 h2, fun h => by have := hctl h; omega, fun _ _ _ => rfl⟩
  · exact ⟨_, locate_code p h1 h2, fun h => by have := hctl h; omega, fun _ _ _ => rfl⟩
  · exact ⟨_, locate_tree p h.1 h.2, fun h => by have := hctl h; omega, fun hn => absurd (.inr (.inl h)) hn⟩
  · exact ⟨_, locate_cart p hl h.1 h.2, fun h => by have := hctl h; omega, fun hn => absurd (.inr (.inr h)) hn⟩
  · exact ⟨_, locate_out p h1 h2, fun h => by have := hctl h; omega, fun _ _ _ => rfl⟩

/-- Settles O53: such an access is no violation, and what stands at the offset is known from the address map. -/
theorem readsPureReadOnlyIgnored : Obligations.ReadsPureReadOnlyIgnored := by
  intro s a d hl h4 hm hfree
  obtain ⟨l, e, hc, hw⟩ := locate_mapped hl h4 hm
  have ht : s.target a = some l := (s.target_aligned h4).trans e
  have hv : s.violates l = false := hfree.elim (s.violates_of_idle · l) fun h => s.violates_of_ctl (hc h)
  refine ⟨⟨_, s.busRead_of_target ht hv⟩, fun hn => ?_⟩
  rw [s.busWrite_of_target d ht hv, hw hn]

/-- Settles O54: no access is a violation, so each write does what its register's rule says. -/
theorem registerWrites : Obligations.RegisterWrites := by
  intro s d
  have hirq : (s.irqDone && !d.getLsbD 0) = if d.getLsbD 0 then false else s.irqDone := by
    cases d.getLsbD 0 <;> simp
  refine ⟨s.busWrite_of_target d (l := .reg .err) rfl (s.violates_of_ctl rfl),
    s.busWrite_of_target d (l := .reg .ctrl) rfl (s.violates_of_ctl rfl), ?_, fun hp => ⟨?_, ?_, ?_⟩⟩
  · rw [s.busWrite_of_target d (l := .reg .irqStat) rfl (s.violates_of_ctl rfl), ← hirq]
    rfl
  · exact s.busWrite_of_target d (l := .reg .cmd) rfl (s.violates_of_idle hp _)
  · rw [s.busWrite_of_target d (l := .reg .treeLen) rfl (s.violates_of_idle hp _),
      ← BitVec.setWidth_eq_extractLsb' (by decide)]
    rfl
  · rw [s.busWrite_of_target d (l := .reg .cartLen) rfl (s.violates_of_idle hp _),
      ← BitVec.setWidth_eq_extractLsb' (by decide)]
    rfl

/-! ### The words of the registers -/

/-- A field with zeros above it. -/
theorem setWidth_eq_zero_append (k : Nat) {w : Nat} (x : BitVec w) : x.setWidth (k + w) = 0#k ++ x := by
  refine BitVec.eq_of_toNat_eq ?_
  have := Nat.pow_le_pow_right (n := 2) (by decide) (Nat.le_add_left w k)
  rw [BitVec.toNat_setWidth, BitVec.toNat_append, Nat.mod_eq_of_lt (x.isLt.trans_le this)]
  simp

theorem errAny_eq (s : State) : s.errAny = decide (s.errFirst ≠ .noError) := by
  unfold State.errAny
  cases s.errFirst <;> decide

/-- STATUS bit by bit (10 R35). -/
theorem statusWord_eq (s : State) : s.statusWord =
    0#27 ++ BitVec.ofBool s.irq ++ BitVec.ofBool (decide (s.errFirst ≠ .noError)) ++ BitVec.ofBool s.codesValid ++
      BitVec.ofBool s.treeValid ++ BitVec.ofBool (decide (s.pending ≠ .idle)) := by
  unfold State.statusWord State.busy
  rw [errAny_eq]
  generalize s.irq = a, decide (s.errFirst ≠ .noError) = b, s.codesValid = c, s.treeValid = d,
    decide (s.pending ≠ .idle) = e
  revert a b c d e
  decide

theorem ctrlWord_eq (s : State) : s.ctrlWord = 0#30 ++ BitVec.ofBool s.errIe ++ BitVec.ofBool s.doneIe := by
  unfold State.ctrlWord
  generalize s.errIe = a, s.doneIe = b
  revert a b
  decide

theorem bit0_eq (b : Bool) : bit0 b = 0#31 ++ BitVec.ofBool b := by
  revert b
  decide

/-- A register of the `ctl` group reads at any time (70 R281). -/
theorem busRead_ctl (s : State) {a : Offset} {r : Reg} {w : Word} (ht : s.target a = some (.reg r))
    (hc : (Loc.reg r).isCtl = true) (hw : s.readReg r = w) : s.busRead a = (.word w, s) :=
  hw ▸ s.busRead_of_target ht (s.violates_of_ctl hc)

/-- Any location reads while idle (70 R281). -/
theorem busRead_idle {s : State} (hp : s.pending = .idle) {a : Offset} {l : Loc} {w : Word} (ht : s.target a = some l)
    (hw : s.readLoc l = w) : (s.busRead a).1 = .word w := by
  rw [s.busRead_of_target ht (s.violates_of_idle hp l), hw]

/-- Settles O55: one word equation for each register. -/
theorem registerReads : Obligations.RegisterReads := by
  refine ⟨fun s => ⟨?_, ?_, ?_, ?_, ?_, ?_, ?_⟩, fun s hp => ⟨?_, ?_, ?_, ?_, ?_, ?_, ?_, ?_, ?_, ?_, ?_⟩,
    rfl, rfl, rfl, rfl, rfl, rfl, rfl, rfl, rfl, rfl, rfl, rfl⟩
  · exact busRead_ctl s (r := .id) rfl rfl rfl
  · exact busRead_ctl s (r := .status) rfl rfl (statusWord_eq s)
  · exact busRead_ctl s (r := .err) rfl rfl rfl
  · exact busRead_ctl s (r := .ctrl) rfl rfl (ctrlWord_eq s)
  · exact busRead_ctl s (r := .irqStat) rfl rfl (bit0_eq _)
  · exact busRead_ctl s (r := .cartCap) rfl rfl rfl
  · exact busRead_ctl s (r := .outCap) rfl rfl rfl
  · exact busRead_idle hp (l := .reg .cmd) rfl rfl
  · exact busRead_idle hp (l := .reg .result) rfl rfl
  · exact busRead_idle hp (l := .reg .freqTotal) rfl rfl
  · exact busRead_idle hp (l := .reg .dropCnt) rfl rfl
  · exact busRead_idle hp (l := .reg .distinct) rfl (setWidth_eq_zero_append 24 s.distinct)
  · exact busRead_idle hp (l := .reg .root) rfl (setWidth_eq_zero_append 24 s.root)
  · exact busRead_idle hp (l := .reg .nodeCnt) rfl (setWidth_eq_zero_append 23 s.nodeCnt)
  · exact busRead_idle hp (l := .reg .treeLen) rfl (setWidth_eq_zero_append 22 s.treeLen)
  · exact busRead_idle hp (l := .reg .cartLen) rfl (setWidth_eq_zero_append 15 s.cartLen)
  · exact busRead_idle hp (l := .reg .outLen) rfl (setWidth_eq_zero_append 15 s.outLen)
  · exact busRead_idle hp (l := .reg .treeUsed) rfl (setWidth_eq_zero_append 22 s.treeUsed)

/-! ### The table windows -/

theorem target_freq (s : State) (y : Sym) : s.target (BitVec.ofNat 18 (0x400 + 4 * y.toNat)) = some (.freq y) := by
  have := y.isLt
  rw [s.target_ofNat (by omega) (by omega), locate_freq _ (by omega) (by omega), Nat.add_sub_cancel_left,
    Nat.mul_div_cancel_left _ (by decide), BitVec.ofNat_toNat, BitVec.setWidth_eq]

theorem target_node_lo (s : State) (i : Slot) :
    s.target (BitVec.ofNat 18 (0x800 + 8 * i.toNat)) = some (.node i false) := by
  have := i.isLt
  rw [s.target_ofNat (by omega) (by omega), locate_node _ (by omega) (by omega), Nat.add_sub_cancel_left,
    Nat.mul_div_cancel_left _ (by decide), BitVec.ofNat_toNat, BitVec.setWidth_eq, decide_eq_false (by omega)]

theorem target_node_hi (s : State) (i : Slot) :
    s.target (BitVec.ofNat 18 (0x804 + 8 * i.toNat)) = some (.node i true) := by
  have := i.isLt
  have e : (0x804 + 8 * i.toNat - 0x800) / 8 = i.toNat := by omega
  rw [s.target_ofNat (by omega) (by omega), locate_node _ (by omega) (by omega), e, BitVec.ofNat_toNat,
    BitVec.setWidth_eq, decide_eq_true (by omega)]

theorem target_code (s : State) (y : Sym) {k : Nat} (hk : k < 8) :
    s.target (BitVec.ofNat 18 (0x1000 + 32 * y.toNat + 4 * k)) = some (.code y (BitVec.ofNat 3 k)) := by
  have := y.isLt
  have e : (0x1000 + 32 * y.toNat + 4 * k - 0x1000) / 32 = y.toNat := by omega
  have ek : BitVec.ofNat 3 ((0x1000 + 32 * y.toNat + 4 * k) / 4) = BitVec.ofNat 3 k := by
    refine BitVec.eq_of_toNat_eq ?_
    simp only [BitVec.toNat_ofNat]
    omega
  rw [s.target_ofNat (by omega) (by omega), locate_code _ (by omega) (by omega), e, ek, BitVec.ofNat_toNat,
    BitVec.setWidth_eq]

/-- The eight words of a CODE entry (10 R55). -/
theorem busWord_ofNat (e : CodeEntry) {k : Nat} (hk : k < 8) : e.busWord (BitVec.ofNat 3 k) =
    if k = 0 then 0#25 ++ e.clen else if k ≤ 4 then e.cbits.extractLsb' (32 * (k - 1)) 32 else 0#32 := by
  have hn : (BitVec.ofNat 3 k).toNat = k := by simp only [BitVec.toNat_ofNat]; omega
  have h0 : BitVec.ofNat 3 k = 0#3 ↔ k = 0 :=
    ⟨fun h => by rw [← hn, h]; rfl, fun h => by rw [h]⟩
  simp only [CodeEntry.busWord, h0, hn]
  rw [← setWidth_eq_zero_append 25 e.clen]

theorem target_cartHeader {s : State} (hl : s.params.Legal) : s.target 0x10000#18 = some (.bytes .cart 0) :=
  (s.target_aligned (by decide)).trans (locate_cart _ hl (by decide) (by
    have := hl.1.2.1
    simp only [BitVec.toNat_ofNat]
    omega))

/-- The header is big-endian and the window little-endian (20 R88, 40 R141). -/
theorem readBytes_cartHeader (s : State) : s.readBytes .cart 0 =
    s.be32.extractLsb' 0 8 ++ s.be32.extractLsb' 8 8 ++ s.be32.extractLsb' 16 8 ++ s.be32.extractLsb' 24 8 := by
  have h := wordBytes_append (s.memRead .cart 0) (s.memRead .cart 1) (s.memRead .cart 2) (s.memRead .cart 3)
  simp only [wordBytes, List.cons.injEq, and_true] at h
  obtain ⟨h0, h1, h2, h3⟩ := h
  rw [State.be32, h0, h1, h2, h3, State.readBytes]

/-- Settles O56: the map gives the table entry at each offset, and the entry's words are as laid out. -/
theorem tableWindows : Obligations.TableWindows := by
  intro s hp
  refine ⟨fun y => busRead_idle hp (target_freq s y) rfl, fun i => ⟨?_, ?_⟩, fun y k hk => ?_, fun hl => ?_⟩
  · exact busRead_idle hp (target_node_lo s i) rfl
  · exact busRead_idle hp (target_node_hi s i) rfl
  · exact busRead_idle hp (target_code s y hk) (busWord_ofNat _ hk)
  · exact busRead_idle hp (target_cartHeader hl) (readBytes_cartHeader s)

end Sys2Proof.Safety
end

section
/-! A step stops only on a host access in reset (20 R91, 70 R285, R287). -/
namespace Sys2Proof.Safety
open Sys2Proof.Machine

/-- A host operation answers a next state, or is an access refused in reset (70 R285). -/
theorem hostOp_next_or_refused (s : State) (op : HostOp) :
    (∃ t, hostOp s op = .next t) ∨ (s.rstN = false ∧ hostOp s op = .refused .accessInReset) := by
  cases hr : s.rstN with
  | true => exact .inl (hostOp_next hr op)
  | false =>
    cases op with
    | write a d | read a | wait => exact .inr ⟨rfl, by simp [hostOp, hr]⟩
    | rstLow | rstHigh => exact .inl ⟨_, rfl⟩

/-- The engine's step never stops: a pending word is a command, which completes, or an illegal word, which fails. -/
theorem engineStep_next {s : State} (hc : CountInv s) (ht : TreeInv s) : ∃ t, engineStep s = .next t := by
  cases hp : s.pending with
  | idle | init =>
    simp only [engineStep, hp]
    exact ⟨_, rfl⟩
  | command w =>
    rw [engineStep_command hp, runWord]
    cases decode w with
    | error e => exact ⟨_, rfl⟩
    | ok i =>
      exact everyCommandCompletes (s.withEnv s.sched.pop s.rstN s.host) i (countInv_keptByStep.env _ _ _ hc)
        (treeInv_keptByStep.env _ _ _ ht) (hp ▸ nofun)

/-- Settles O16: the engine's step never stops, and the host's stops only on an access refused in reset. -/
theorem stepStopsOnlyInReset : Obligations.StepStopsOnlyInReset := by
  intro s hc ht
  unfold step
  split
  · exact .inl (engineStep_next hc ht)
  · unfold hostStep
    cases s.nextOp with
    | none => exact .inl ⟨s, rfl⟩
    | some op =>
      refine (hostOp_next_or_refused _ op).imp_right fun ⟨hr, he⟩ => ⟨?_, he⟩
      split at hr <;> exact hr

end Sys2Proof.Safety
end

section
/-! Offsets that are misaligned or outside the address map (20 R82, R84). -/
namespace Sys2Proof.Safety
open Sys2Proof.Machine

theorem regAt_lt {k : Nat} {r : Reg} (h : regAt k = some r) : k < 18 := (List.getElem?_eq_some_iff.1 h).1

/-- Nothing stands outside the map's ranges, whatever the parameters. -/
theorem mapped_of_locate {p : Params} {n : Nat} {l : Loc} (h : locate p n = some l) : Mapped p n := by
  unfold Mapped
  unfold locate at h
  split at h
  · obtain ⟨r, hr, -⟩ := Option.map_eq_some_iff.1 h
    have := regAt_lt hr
    omega
  · repeat' split at h
    all_goals
      cases h
    all_goals
      omega

theorem target_badOffset {s : State} {a : Offset} (h : a.toNat % 4 ≠ 0 ∨ ¬ Mapped s.params a.toNat) :
    s.target a = none := by
  unfold State.target
  split
  · rename_i h4
    cases hl : locate s.params a.toNat with
    | none => rfl
    | some l => exact absurd (mapped_of_locate hl) (h.resolve_left (not_not_intro h4))
  · rfl

/-- Settles O51: no location stands at such an offset, and both transactions look there first. -/
theorem badOffsetIsBusError : Obligations.BadOffsetIsBusError := by
  intro s a d h
  have ht := target_badOffset h
  exact ⟨by simp only [State.busRead, ht], by simp only [State.busWrite, ht]⟩

end Sys2Proof.Safety
end

section
/-! The byte windows (20 R83, R85): where each stands, and its words as four bytes. -/
namespace Sys2Proof.Machine

/-- Where the window of a byte memory begins (20 R83). -/
def windowBase : ByteMem → Nat
  | .tree => 0x2000
  | .cart => 0x10000
  | .out => 0x20000

/-- Word `w` of a window is bytes `4w` to `4w + 3` of its memory. -/
theorem target_window {s : State} (m : ByteMem) {w : Nat} (hl : s.params.Legal) (hw : 4 * w < memSize s.params m) :
    s.target (BitVec.ofNat 18 (windowBase m + 4 * w)) = some (.bytes m (4 * w)) := by
  obtain ⟨⟨-, -, hc⟩, -, -, ho⟩ := id hl
  cases m with
  | tree =>
    simp only [memSize, windowBase, Config.treeBytes] at hw ⊢
    rw [s.target_ofNat (by omega) (by omega), locate_tree _ (by omega) (by omega), Nat.add_sub_cancel_left]
  | cart =>
    simp only [memSize, windowBase] at hw ⊢
    rw [s.target_ofNat (by omega) (by omega), locate_cart _ hl (by omega) (by omega), Nat.add_sub_cancel_left]
  | out =>
    simp only [memSize, windowBase] at hw ⊢
    rw [s.target_ofNat (by omega) (by omega), locate_out _ (by omega) (by omega), Nat.add_sub_cancel_left]

/-! ### Bytes of a word -/

/-- Byte `k` of a word packed little-endian. -/
theorem extractLsb'_append_bytes (b3 b2 b1 b0 : Byte) {k : Nat} (hk : k < 4) :
    (b3 ++ b2 ++ b1 ++ b0).extractLsb' (8 * k) 8 = [b0, b1, b2, b3].getD k 0#8 := by
  rw [← wordBytes_append b3 b2 b1 b0]
  interval_cases k <;> rfl

theorem extractLsb'_readBytes (s : State) (m : ByteMem) (a : Nat) {k : Nat} (hk : k < 4) :
    (s.readBytes m a).extractLsb' (8 * k) 8 = s.memRead m (a + k) := by
  rw [State.readBytes, extractLsb'_append_bytes _ _ _ _ hk]
  interval_cases k <;> rfl

@[simp] theorem State.writeBytes_params (s : State) (m : ByteMem) (a : Nat) (d : Word) :
    (s.writeBytes m a d).params = s.params := s.memWrites_params m a _

@[simp] theorem State.writeBytes_pending (s : State) (m : ByteMem) (a : Nat) (d : Word) :
    (s.writeBytes m a d).pending = s.pending := s.memWrites_pending m a _

/-- A word written to a window, byte by byte. -/
theorem State.memRead_writeBytes (s : State) (m : ByteMem) (a b : Nat) (d : Word) :
    (s.writeBytes m a d).memRead m b =
      if a ≤ b ∧ b < a + 4 then d.extractLsb' (8 * (b - a)) 8 else s.memRead m b := by
  rw [State.writeBytes, State.memRead_memWrites]
  by_cases h : a ≤ b ∧ b < a + 4
  · obtain ⟨k, rfl⟩ := Nat.exists_eq_add_of_le h.1
    have hk : k < 4 := by omega
    simp only [List.length_cons, List.length_nil, h, Nat.add_sub_cancel_left, and_self, if_true]
    interval_cases k <;> rfl
  · simp [h]

theorem State.memRead_writeBytes_in (s : State) (m : ByteMem) (a : Nat) (d : Word) {k : Nat} (hk : k < 4) :
    (s.writeBytes m a d).memRead m (a + k) = d.extractLsb' (8 * k) 8 := by
  rw [State.memRead_writeBytes, if_pos (by omega), Nat.add_sub_cancel_left]

/-- A word written to a window reads back. -/
theorem State.readBytes_writeBytes (s : State) (m : ByteMem) (a : Nat) (d : Word) :
    (s.writeBytes m a d).readBytes m a = d := by
  have h0 : (s.writeBytes m a d).memRead m a = d.extractLsb' 0 8 := s.memRead_writeBytes_in m a d (k := 0) (by decide)
  rw [State.readBytes, h0, s.memRead_writeBytes_in m a d (k := 1) (by decide),
    s.memRead_writeBytes_in m a d (k := 2) (by decide), s.memRead_writeBytes_in m a d (k := 3) (by decide)]
  exact word_of_bytes d

theorem State.writeLoc_bytes (s : State) {m : ByteMem} (hm : m ≠ .out) (a : Nat) (d : Word) :
    s.writeLoc d (.bytes m a) = s.writeBytes m a d := by
  cases m with
  | tree | cart => rfl
  | out => exact absurd rfl hm

end Sys2Proof.Machine

namespace Sys2Proof.Safety
open Sys2Proof.Machine

/-- Settles O57: while idle the window's word is no violation, and it stands for the four bytes of its memory. -/
theorem byteWindowsLittleEndian : Obligations.ByteWindowsLittleEndian := by
  intro s m base w hl hp hbase hw
  obtain rfl : base = windowBase m := by rcases hbase with ⟨rfl, rfl⟩ | ⟨rfl, rfl⟩ | ⟨rfl, rfl⟩ <;> rfl
  have ht := target_window m hl hw
  refine ⟨⟨_, s.busRead_of_target ht (s.violates_of_idle hp _), fun k hk => extractLsb'_readBytes s m _ hk⟩,
    fun hm d => ⟨s.writeBytes m (4 * w) d, ?_, fun k hk => s.memRead_writeBytes_in m _ d hk, fun a ha => ?_, ?_, _, rfl⟩⟩
  · rw [s.busWrite_of_target d ht (s.violates_of_idle hp _), s.writeLoc_bytes hm]
  · rw [s.memRead_writeBytes, if_neg (by omega)]
  · have ht' := target_window (s := s.writeBytes m (4 * w) d) m (by simpa using hl) (by simpa using hw)
    rw [State.busRead_of_target ht' (State.violates_of_idle (by simpa using hp) _), State.readLoc,
      State.readBytes_writeBytes]

end Sys2Proof.Safety
end

section
/-! WBYTES and RBYTES (30 R127): what each leaves, and what the reads give back. -/
namespace Sys2Proof.Safety
open Sys2Proof.Machine

/-! ### One transaction of the host -/

/-- While idle, a host write to a window of TREE_MEM or CART writes its four bytes and moves only the host agent. -/
theorem hostOp_writeBytes {s : State} {m : ByteMem} {o : Offset} {a : Nat} (d : Word) (hr : s.rstN = true)
    (hp : s.pending = .idle) (hm : m ≠ .out) (ht : s.target o = some (.bytes m a)) :
    ∃ h, hostOp s (.write o d) = .next ((s.writeBytes m a d).withEnv s.sched s.rstN h) := by
  refine ⟨{ s.host with lastResp := .ok, index := s.host.index + 1 }, ?_⟩
  rw [hostOp, if_pos hr, State.hostWrite, s.busWrite_of_target d ht (s.violates_of_idle hp _), s.writeLoc_bytes hm]
  cases m <;> rfl

/-- While idle, a host read of a window moves only the host agent, which records the word. -/
theorem hostOp_readBytes {s : State} {m : ByteMem} {o : Offset} {a : Nat} (hr : s.rstN = true)
    (hp : s.pending = .idle) (ht : s.target o = some (.bytes m a)) :
    ∃ h, hostOp s (.read o) = .next (s.withEnv s.sched s.rstN h) ∧
      h.recorded = s.host.recorded ++ [.word (s.readBytes m a)] := by
  refine ⟨{ s.host with
    lastResp := .word (s.readBytes m a), recorded := s.host.recorded ++ [.word (s.readBytes m a)]
    index := s.host.index + 1 }, ?_, rfl⟩
  rw [hostOp, if_pos hr, State.hostRead, s.busRead_of_target ht (s.violates_of_idle hp _)]
  rfl

@[simp] theorem withEnv_params (s : State) (q : Schedule) (r : Bool) (h : HostAgent) :
    (s.withEnv q r h).params = s.params := rfl

@[simp] theorem withEnv_pending (s : State) (q : Schedule) (r : Bool) (h : HostAgent) :
    (s.withEnv q r h).pending = s.pending := rfl

@[simp] theorem memRead_withEnv (s : State) (q : Schedule) (r : Bool) (h : HostAgent) (m : ByteMem) (a : Nat) :
    (s.withEnv q r h).memRead m a = s.memRead m a :=
  State.memRead_congr (by cases m <;> rfl) rfl a

/-! ### WBYTES -/

/-- The word WBYTES makes of the first four bytes, absent ones 0 (30 R127). -/
def packWord (bs : List Byte) : Word := bs.getD 3 0#8 ++ bs.getD 2 0#8 ++ bs.getD 1 0#8 ++ bs.getD 0 0#8

theorem extractLsb'_packWord (bs : List Byte) {k : Nat} (hk : k < 4) :
    (packWord bs).extractLsb' (8 * k) 8 = bs.getD k 0#8 := by
  rw [packWord, extractLsb'_append_bytes _ _ _ _ hk]
  interval_cases k <;> rfl

/-- WBYTES one word at a time. -/
theorem opsWBytes_eq (o : Offset) {bs : List Byte} (h : bs ≠ []) :
    opsWBytes o bs = .write o (packWord bs) :: opsWBytes (o + 4#18) (bs.drop 4) := by
  match bs, h with
  | [b0], _ =>
    exact congrArg (fun z : BitVec 24 => [HostOp.write o (z ++ b0)]) (show 0#24 = 0#8 ++ 0#8 ++ 0#8 by decide)
  | [b0, b1], _ =>
    exact congrArg (fun z : BitVec 16 => [HostOp.write o (z ++ b1 ++ b0)]) (show 0#16 = 0#8 ++ 0#8 by decide)
  | [_, _, _], _ | _ :: _ :: _ :: _ :: _, _ => rfl

theorem ceil4_length {bs : List Byte} (h : bs ≠ []) : ceil4 bs.length = ceil4 (bs.drop 4).length + 1 := by
  have := List.length_pos_of_ne_nil h
  simp only [ceil4, List.length_drop]
  omega

/-- `t` is `s` with `bs` in memory `m` from byte `a` on, the last word padded with 0 (30 R127), out of reset and idle. -/
structure Landed (s : State) (m : ByteMem) (a : Nat) (bs : List Byte) (t : State) : Prop where
  params : t.params = s.params
  running : t.rstN = true
  idle : t.pending = .idle
  bytes : ∀ b, t.memRead m b =
    if a ≤ b ∧ b < a + 4 * ceil4 bs.length then bs.getD (b - a) 0#8 else s.memRead m b

theorem landed_nil {s : State} (m : ByteMem) (a : Nat) (hr : s.rstN = true) (hp : s.pending = .idle) :
    Landed s m a [] s :=
  ⟨rfl, hr, hp, fun b => by rw [if_neg (by simp only [ceil4, List.length_nil]; omega)]⟩

/-- The first word and then the others. -/
theorem Landed.cons {s u t : State} {m : ByteMem} {a : Nat} {bs : List Byte} (hne : bs ≠ [])
    (hu : u.params = s.params) (hw : ∀ b, u.memRead m b = (s.writeBytes m a (packWord bs)).memRead m b)
    (h : Landed u m (a + 4) (bs.drop 4) t) : Landed s m a bs t := by
  refine ⟨h.params.trans hu, h.running, h.idle, fun b => ?_⟩
  rw [h.bytes, hw, s.memRead_writeBytes, ceil4_length hne]
  rcases lt_or_ge b (a + 4) with hb | hb
  · rw [if_neg (by omega)]
    by_cases ha : a ≤ b
    · rw [if_pos ⟨ha, hb⟩, if_pos (by omega), extractLsb'_packWord bs (by omega)]
    · rw [if_neg (by omega), if_neg (by omega)]
  · rw [if_neg (c := a ≤ b ∧ b < a + 4) (by omega), List.getD_eq_getElem?_getD, List.getElem?_drop,
      ← List.getD_eq_getElem?_getD, show 4 + (b - (a + 4)) = b - a by omega]
    exact if_congr (by omega) rfl rfl

/-- Every memory is a whole number of words (00 R9). -/
theorem memSize_mod (m : ByteMem) {p : Params} (hl : p.Legal) : memSize p m % 4 = 0 := by
  obtain ⟨⟨hc, -⟩, ho, -⟩ := hl
  cases m with
  | tree => exact (by decide : 512 % 4 = 0)
  | cart => exact hc
  | out => exact ho

/-- WBYTES lands its bytes, by induction on the words it writes. -/
theorem runHostOps_opsWBytes {s : State} {m : ByteMem} {w : Nat} {bs : List Byte} (hl : s.params.Legal)
    (hr : s.rstN = true) (hp : s.pending = .idle) (hm : m ≠ .out)
    (hfit : 4 * (w + ceil4 bs.length) ≤ memSize s.params m) :
    ∃ t, runHostOps (opsWBytes (BitVec.ofNat 18 (windowBase m + 4 * w)) bs) s = .next t ∧
      Landed s m (4 * w) bs t := by
  induction hk : ceil4 bs.length generalizing s w bs with
  | zero =>
    obtain rfl : bs = [] := List.length_eq_zero_iff.1 (by unfold ceil4 at hk; omega)
    exact ⟨s, rfl, landed_nil m _ hr hp⟩
  | succ k ih =>
    have hne : bs ≠ [] := by rintro rfl; cases hk
    have hlen := ceil4_length hne
    obtain ⟨h, hu⟩ := hostOp_writeBytes (packWord bs) hr hp hm (target_window m hl (w := w) (by omega))
    obtain ⟨t, ht, hland⟩ := ih (s := (s.writeBytes m (4 * w) (packWord bs)).withEnv s.sched s.rstN h) (w := w + 1)
      (bs := bs.drop 4) (by simpa using hl) hr (by simpa using hp)
      (by simpa [hlen, Nat.add_assoc, Nat.add_comm 1] using hfit) (by omega)
    refine ⟨t, ?_, hland.cons hne ?_ fun b => memRead_withEnv _ _ _ _ m b⟩
    · rw [opsWBytes_eq _ hne, runHostOps, hu, ← ht, ← BitVec.ofNat_add]
      rfl
    · simp

/-! ### RBYTES -/

/-- While idle, reads of a window leave the block and record its words. -/
theorem runHostOps_reads {s : State} {m : ByteMem} {o : Nat → Offset} {a : Nat → Nat} {js : List Nat}
    (hr : s.rstN = true) (hp : s.pending = .idle) (ht : ∀ j ∈ js, s.target (o j) = some (.bytes m (a j))) :
    ∃ h, runHostOps (js.map fun j => .read (o j)) s = .next (s.withEnv s.sched s.rstN h) ∧
      h.recorded = s.host.recorded ++ js.map fun j => .word (s.readBytes m (a j)) := by
  induction js generalizing s with
  | nil => exact ⟨s.host, rfl, by simp⟩
  | cons j js ih =>
    obtain ⟨g, hg, hrec⟩ := hostOp_readBytes hr hp (ht j List.mem_cons_self)
    obtain ⟨h, hh, hrecs⟩ := ih (s := s.withEnv s.sched s.rstN g) hr hp fun i hi => ht i (List.mem_cons_of_mem _ hi)
    refine ⟨h, ?_, ?_⟩
    · rw [List.map_cons, runHostOps, hg]
      exact hh
    · rw [hrecs]
      simp only [State.readBytes, memRead_withEnv] at hrec ⊢
      simp [State.withEnv, hrec]

/-- The bytes of a run of window words. -/
theorem flatMap_wordBytes_readBytes (s : State) (m : ByteMem) (a n : Nat) :
    ((List.range n).map fun j => s.readBytes m (a + 4 * j)).flatMap wordBytes = bytesFrom s m a (4 * n) := by
  induction n with
  | zero => rfl
  | succ n ih =>
    rw [List.range_succ, List.map_append, List.flatMap_append, ih]
    simp only [bytesFrom, Nat.mul_succ, List.range_add, List.map_append, List.map_map]
    congr 1
    simp [State.readBytes, List.range_succ, Nat.add_assoc, Function.comp_def]

theorem take_bytesFrom (s : State) (m : ByteMem) (a : Nat) {k n : Nat} (h : k ≤ n) :
    (bytesFrom s m a n).take k = bytesFrom s m a k := by
  rw [bytesFrom, ← List.map_take, List.take_range, Nat.min_eq_left h, bytesFrom]

/-- RBYTES gives the host the bytes that stand in the window, and leaves the block. -/
theorem runHostOps_opsRBytes {s : State} {m : ByteMem} {w n : Nat} (hl : s.params.Legal) (hr : s.rstN = true)
    (hp : s.pending = .idle) (hfit : 4 * w + n ≤ memSize s.params m) :
    ∃ h, runHostOps (opsRBytes (BitVec.ofNat 18 (windowBase m + 4 * w)) n) s = .next (s.withEnv s.sched s.rstN h) ∧
      (s.withEnv s.sched s.rstN h).hostRBytes n = some (bytesFrom s m (4 * w) n) := by
  have ht : ∀ j ∈ List.range (ceil4 n),
      s.target (BitVec.ofNat 18 (windowBase m + 4 * w) + BitVec.ofNat 18 (4 * j)) = some (.bytes m (4 * w + 4 * j)) := by
    intro j hj
    have := List.mem_range.1 hj
    rw [← BitVec.ofNat_add, Nat.add_assoc, ← Nat.mul_add]
    exact target_window m hl (by unfold ceil4 at this; omega)
  obtain ⟨h, hh, hrec⟩ := runHostOps_reads hr hp ht
  refine ⟨h, hh, ?_⟩
  have hdrop : h.recorded.drop (h.recorded.length - ceil4 n) =
      ((List.range (ceil4 n)).map fun j => s.readBytes m (4 * w + 4 * j)).map .word := by
    rw [hrec, List.map_map]
    exact List.drop_left' (by simp)
  simp only [State.hostRBytes, State.withEnv, hdrop, unpackRBytes, respBytes_words, Option.map_some,
    flatMap_wordBytes_readBytes]
  rw [take_bytesFrom _ _ _ (by unfold ceil4; omega)]

/-- The bytes that landed are the bytes written. -/
theorem bytesFrom_landed {s t : State} {m : ByteMem} {a : Nat} {bs : List Byte} (h : Landed s m a bs t) :
    bytesFrom t m a bs.length = bs := by
  refine List.ext_getElem (by simp [bytesFrom]) fun k _ hk => ?_
  have hin : a ≤ a + k ∧ a + k < a + 4 * ceil4 bs.length := by unfold ceil4; omega
  simp only [bytesFrom, List.getElem_map, List.getElem_range, h.bytes, if_pos hin]
  simp [hk]

/-- Settles O60: WBYTES lands the bytes, and RBYTES reads what stands there. -/
theorem rBytesInvertsWBytes : Obligations.RBytesInvertsWBytes := by
  intro s m win w bs hl hr hp hwin hfit
  obtain ⟨rfl, hm⟩ : win = windowBase m ∧ m ≠ .out := by rcases hwin with ⟨rfl, rfl⟩ | ⟨rfl, rfl⟩ <;> exact ⟨rfl, nofun⟩
  obtain ⟨u, hu, hland⟩ := runHostOps_opsWBytes hl hr hp hm (w := w) (bs := bs) <| by
    have := memSize_mod m hl
    unfold ceil4
    omega
  obtain ⟨h, ht, hread⟩ := runHostOps_opsRBytes (w := w) (n := bs.length) (hland.params ▸ hl) hland.running hland.idle
    (hland.params ▸ hfit)
  have hbytes := bytesFrom_landed hland
  refine ⟨_, (runHostOps_append _ hu).trans ht, ?_, fun a h1 h2 => ?_, fun a ha => ?_, hread.trans (congrArg some hbytes)⟩
  · simpa only [bytesFrom, memRead_withEnv] using hbytes
  · rw [memRead_withEnv, hland.bytes, if_pos (by unfold ceil4; omega)]
    exact List.getD_eq_default _ _ (by omega)
  · rw [memRead_withEnv, hland.bytes, if_neg (by unfold ceil4; omega)]

end Sys2Proof.Safety
end

section
/-! The decoder and the encoder (30 R110 to R122): one equation for every listed opcode, and what illegal words are. -/
namespace Sys2Proof

/-! ### The fields of a word (30 R112) -/

/-- `{field, OP}` is the whole word. -/
theorem field_append_opField (w : Word) : w.extractLsb' 8 24 ++ opField w = w := by
  rw [opField, BitVec.extractLsb'_append_extractLsb'_eq_extractLsb' (by decide)]
  exact BitVec.extractLsb'_eq_self

/-- `{INDEX, BIT}` is the field above the opcode. -/
theorem index_append_bit (w : Word) :
    BitVec.ofNat 23 (field23 w) ++ BitVec.ofBool (field1 w) = w.extractLsb' 8 24 := by
  have hbit : BitVec.ofBool (field1 w) = w.extractLsb' 8 1 := by
    ext k hk
    obtain rfl : k = 0 := by omega
    simp [field1]
  rw [hbit, field23, BitVec.ofNat_toNat, BitVec.setWidth_eq,
    BitVec.extractLsb'_append_extractLsb'_eq_extractLsb' (by decide)]

@[simp] theorem ofNat_field24 (w : Word) : BitVec.ofNat 24 (field24 w) = w.extractLsb' 8 24 := by
  rw [field24, BitVec.ofNat_toNat, BitVec.setWidth_eq]

theorem field24_lt (w : Word) : field24 w < 2 ^ 24 := (w.extractLsb' 8 24).isLt

theorem field23_lt (w : Word) : field23 w < 2 ^ 23 := (w.extractLsb' 9 23).isLt

@[simp] theorem opField_encode (i : Instr) : opField (encode i) = i.opcode := (Laws.EncodedOpcode.split i).1

@[simp] theorem field_encode (i : Instr) : (encode i).extractLsb' 8 24 = i.fields := (Laws.EncodedOpcode.split i).2

theorem field24_encode (i : Instr) : field24 (encode i) = i.fields.toNat := by rw [field24, field_encode]

/-- A field `{index, bit}` gives back its two parts. -/
theorem fields_index_bit {i : Instr} {k : Nat} {b : Bool} (h : i.fields = BitVec.ofNat 23 k ++ BitVec.ofBool b)
    (hk : k < 2 ^ 23) : field23 (encode i) = k ∧ field1 (encode i) = b := by
  have happ := (index_append_bit (encode i)).trans ((field_encode i).trans h)
  constructor
  · have := congrArg (fun v => (BitVec.extractLsb' 1 23 v).toNat) happ
    simpa only [BitVec.extractLsb'_append_eq_left, BitVec.toNat_ofNat, Nat.mod_eq_of_lt hk,
      Nat.mod_eq_of_lt (field23_lt _)] using this
  · have := congrArg (BitVec.extractLsb' 0 1) happ
    simpa only [BitVec.extractLsb'_append_eq_right, BitVec.ofBool_eq_iff_eq] using this

/-! ### The decoder (30 R113, R115, R119) -/

/-- The reserved bits of a command's field: all of format N's (30 R113), bit 0 of format G's (30 R115), else none. -/
def Instr.reserved : Instr → BitVec 24
  | .freqAdd _ | .bbCreate _ | .bbSet _ _ | .encChar _ => 0#24
  | .bbGet _ => 1#24
  | _ => BitVec.allOnes 24

/-- The command with its operands replaced by those of `w` (30 R112). -/
def Instr.withOperandsOf (w : Word) : Instr → Instr
  | .freqAdd _ => .freqAdd (field24 w)
  | .bbCreate _ => .bbCreate (field24 w)
  | .bbSet _ _ => .bbSet (field23 w) (field1 w)
  | .bbGet _ => .bbGet (field23 w)
  | .encChar _ => .encChar (field24 w)
  | i => i

theorem formN_eq (w : Word) (i : Instr) : formN w i =
    if w.extractLsb' 8 24 &&& BitVec.allOnes 24 = 0#24 then .ok i else .error (.reservedField (opField w)) := by
  rw [formN, BitVec.and_allOnes]
  exact if_congr (BitVec.toNat_eq (y := 0#24)).symm rfl rfl

/-- Bit 0 of the field is BIT. -/
theorem field_and_one (w : Word) : w.extractLsb' 8 24 &&& 1#24 = 0#24 ↔ field1 w = false := by
  rw [← index_append_bit w, show (1#24) = 0#23 ++ 1#1 from rfl, BitVec.and_append, BitVec.and_zero]
  cases field1 w <;> decide

theorem formG_eq (w : Word) (i : Nat → Instr) : formG w i =
    if w.extractLsb' 8 24 &&& 1#24 = 0#24 then .ok (i (field23 w)) else .error (.reservedField (opField w)) := by
  simp only [formG, field_and_one]
  cases field1 w <;> rfl

/-- A word with a listed opcode is that command with the word's operands, unless a reserved bit is set. -/
theorem decode_of_opcode {w : Word} {i : Instr} (h : opField w = i.opcode) : decode w =
    if w.extractLsb' 8 24 &&& i.reserved = 0#24 then .ok (i.withOperandsOf w)
    else .error (.reservedField (opField w)) := by
  cases i with
  | freqAdd | bbCreate | bbSet | encChar =>
    simp only [decode, h, Instr.opcode, Instr.reserved, Instr.withOperandsOf, BitVec.and_zero, if_true]
  | bbGet => exact .trans (by simp only [decode, h, Instr.opcode]) (formG_eq w .bbGet)
  | _ => exact .trans (by simp only [decode, h, Instr.opcode, Instr.withOperandsOf]) (formN_eq w _)

/-- A word with no command's opcode is illegal for that reason (30 R120). -/
theorem decode_of_unlisted {w : Word} (h : ∀ i : Instr, opField w ≠ i.opcode) :
    decode w = .error (.unlistedOpcode (opField w)) := by
  unfold decode
  split
  · exact absurd ‹_› (h .nop)
  · exact absurd ‹_› (h .srst)
  · exact absurd ‹_› (h .freqClr)
  · exact absurd ‹_› (h (.freqAdd 0))
  · exact absurd ‹_› (h .build)
  · exact absurd ‹_› (h .codegen)
  · exact absurd ‹_› (h (.bbCreate 0))
  · exact absurd ‹_› (h (.bbSet 0 false))
  · exact absurd ‹_› (h (.bbGet 0))
  · exact absurd ‹_› (h (.encChar 0))
  · exact absurd ‹_› (h .decode)
  · exact absurd ‹_› (h .ser)
  · exact absurd ‹_› (h .deser)
  · rfl

/-! ### Round trips (30 R119, R122) -/

/-- The encoder leaves the reserved bits 0. -/
theorem fields_and_reserved (i : Instr) : i.fields &&& i.reserved = 0#24 := by
  cases i with
  | freqAdd | bbCreate | bbSet | encChar => exact BitVec.and_zero
  | bbGet k => exact (BitVec.and_append (x₂ := 0#23) (y₂ := 1#1)).trans (by rw [BitVec.and_zero]; rfl)
  | _ => rfl

/-- The operands of a well-formed command's word are its own. -/
theorem withOperandsOf_encode {i : Instr} (h : i.wellFormed = true) : i.withOperandsOf (encode i) = i := by
  cases i with
  | freqAdd n | bbCreate n | encChar n =>
    have hn : n < 2 ^ 24 := of_decide_eq_true h
    simp only [Instr.withOperandsOf, field24_encode, Instr.fields, BitVec.toNat_ofNat, Nat.mod_eq_of_lt hn]
  | bbSet k b =>
    obtain ⟨hk, hb⟩ := fields_index_bit (i := .bbSet k b) rfl (of_decide_eq_true h)
    rw [Instr.withOperandsOf, hk, hb]
  | bbGet k =>
    obtain ⟨hk, -⟩ := fields_index_bit (i := .bbGet k) (b := false) rfl (of_decide_eq_true h)
    rw [Instr.withOperandsOf, hk]
  | _ => rfl

/-- Settles O1: the opcode selects the command's row, its reserved bits are 0, and its operands come back. -/
theorem decodeOfEncode : Obligations.DecodeOfEncode := by
  intro i h
  rw [decode_of_opcode (opField_encode i), field_encode, if_pos (fields_and_reserved i), withOperandsOf_encode h]

@[simp] theorem opcode_withOperandsOf (w : Word) (i : Instr) : (i.withOperandsOf w).opcode = i.opcode := by
  cases i <;> rfl

theorem wellFormed_withOperandsOf (w : Word) (i : Instr) :
    (i.withOperandsOf w).wellFormed = true := by
  cases i with
  | freqAdd | bbCreate | encChar => exact decide_eq_true (field24_lt w)
  | bbSet | bbGet => exact decide_eq_true (field23_lt w)
  | _ => rfl

/-- With the reserved bits 0, the operands are the whole field. -/
theorem fields_withOperandsOf {w : Word} {i : Instr} (h : w.extractLsb' 8 24 &&& i.reserved = 0#24) :
    (i.withOperandsOf w).fields = w.extractLsb' 8 24 := by
  cases i with
  | freqAdd | bbCreate | encChar => exact ofNat_field24 w
  | bbSet => exact index_append_bit w
  | bbGet =>
    rw [← index_append_bit w, (field_and_one w).1 h]
    rfl
  | _ => exact (BitVec.and_allOnes.symm.trans h).symm

/-- Settles O2: an accepted word's opcode is listed, and its field is the operands with no reserved bit left over. -/
theorem encodeOfDecode : Obligations.EncodeOfDecode := by
  intro w i h
  by_cases hlist : ∃ j : Instr, opField w = j.opcode
  · obtain ⟨j, hj⟩ := hlist
    rw [decode_of_opcode hj] at h
    split at h
    next hres =>
      cases h
      refine ⟨wellFormed_withOperandsOf w j, ?_⟩
      rw [encode, fields_withOperandsOf hres, opcode_withOperandsOf, ← hj, field_append_opField]
    next => cases h
  · rw [decode_of_unlisted (not_exists.1 hlist)] at h
    cases h

/-- Settles O3: fifteen fixed words, each read by evaluating the decoder. -/
theorem specWordsDecode : Obligations.SpecWordsDecode := by
  unfold Obligations.SpecWordsDecode
  decide

end Sys2Proof

namespace Sys2Proof.Safety
open Sys2Proof.Machine

/-! ### The opcode map as match and mask (30 R119, R120) -/

/-- The rows are those of the commands: OP is matched, and the reserved bits must be 0. -/
theorem mem_opcodeRows {r : Word × Word} :
    r ∈ opcodeRows ↔ ∃ i : Instr, r = (0#24 ++ i.opcode, i.reserved ++ BitVec.allOnes 8) := by
  constructor
  · simp only [opcodeRows, List.mem_cons, List.not_mem_nil, or_false]
    rintro (rfl | rfl | rfl | rfl | rfl | rfl | rfl | rfl | rfl | rfl | rfl | rfl | rfl)
    · exact ⟨.nop, rfl⟩
    · exact ⟨.srst, rfl⟩
    · exact ⟨.freqClr, rfl⟩
    · exact ⟨.freqAdd 0, rfl⟩
    · exact ⟨.build, rfl⟩
    · exact ⟨.codegen, rfl⟩
    · exact ⟨.bbCreate 0, rfl⟩
    · exact ⟨.bbSet 0 false, rfl⟩
    · exact ⟨.bbGet 0, rfl⟩
    · exact ⟨.encChar 0, rfl⟩
    · exact ⟨.decode, rfl⟩
    · exact ⟨.ser, rfl⟩
    · exact ⟨.deser, rfl⟩
  · rintro ⟨i, rfl⟩
    cases i <;> simp only [Instr.opcode, Instr.reserved] <;> decide

/-- A word's opcode is that of some row exactly when it is some command's. -/
theorem row_opcode_iff {w : Word} :
    (∃ r ∈ opcodeRows, w.extractLsb' 0 8 = r.1.extractLsb' 0 8) ↔ ∃ i : Instr, opField w = i.opcode := by
  constructor
  · rintro ⟨r, hr, h⟩
    obtain ⟨i, rfl⟩ := mem_opcodeRows.1 hr
    exact ⟨i, h.trans BitVec.extractLsb'_append_eq_right⟩
  · rintro ⟨i, h⟩
    exact ⟨_, mem_opcodeRows.2 ⟨i, rfl⟩, h.trans BitVec.extractLsb'_append_eq_right.symm⟩

/-- A word matches a command's row when its opcode is the command's and its reserved bits are 0. -/
theorem matches_row_iff {w : Word} {i : Instr} :
    w &&& (i.reserved ++ BitVec.allOnes 8) = 0#24 ++ i.opcode ↔
      opField w = i.opcode ∧ w.extractLsb' 8 24 &&& i.reserved = 0#24 := by
  have hand : w &&& (i.reserved ++ BitVec.allOnes 8) = (w.extractLsb' 8 24 &&& i.reserved) ++ opField w := by
    conv_lhs => rw [← field_append_opField w, BitVec.and_append, BitVec.and_allOnes]
  rw [hand]
  constructor
  · intro h
    exact ⟨by simpa only [BitVec.extractLsb'_append_eq_right] using congrArg (BitVec.extractLsb' 0 8) h,
      by simpa only [BitVec.extractLsb'_append_eq_left] using congrArg (BitVec.extractLsb' 8 24) h⟩
  · rintro ⟨hop, hres⟩
    rw [hop, hres]

/-- The decoder accepts the words that match a row. -/
theorem matches_iff_decodes {w : Word} : (∃ r ∈ opcodeRows, w &&& r.2 = r.1) ↔ ∃ i, decode w = .ok i := by
  constructor
  · rintro ⟨r, hr, h⟩
    obtain ⟨i, rfl⟩ := mem_opcodeRows.1 hr
    obtain ⟨hop, hres⟩ := matches_row_iff.1 h
    exact ⟨_, (decode_of_opcode hop).trans (if_pos hres)⟩
  · rintro ⟨i, h⟩
    obtain ⟨-, rfl⟩ := encodeOfDecode w i h
    exact ⟨_, mem_opcodeRows.2 ⟨i, rfl⟩,
      matches_row_iff.2 ⟨opField_encode i, (congrArg (· &&& i.reserved) (field_encode i)).trans (fields_and_reserved i)⟩⟩

/-- The decoder refuses the words that match no row. -/
theorem no_match_iff_error {w : Word} : (∀ r ∈ opcodeRows, w &&& r.2 ≠ r.1) ↔ ∃ e, decode w = .error e := by
  have hneg : (∀ r ∈ opcodeRows, w &&& r.2 ≠ r.1) ↔ ¬ ∃ i, decode w = .ok i := by
    rw [← matches_iff_decodes]
    simp only [not_exists, not_and, ne_eq]
  rw [hneg]
  cases decode w <;> simp

/-- A refused word whose opcode is listed has a reserved bit set. -/
theorem decode_reserved {w : Word} {e : DecodeError} {i : Instr} (h : decode w = .error e) (hop : opField w = i.opcode) :
    decode w = .error (.reservedField (opField w)) := by
  have hd := decode_of_opcode hop
  split at hd
  · cases hd.symm.trans h
  · exact hd

/-- An illegal word fails with ILLEGAL_CMD and does nothing else (30 R120). -/
theorem runWord_illegal {w : Word} {e : DecodeError} (h : decode w = .error e) (s : State) :
    runWord w s = .next (s.raise .illegalCmd 0#32) := by
  rw [runWord, h]
  rfl

/-- The first error of a pending word is recorded with the word's opcode (60 R245). -/
theorem raise_errFirstOp_command {s : State} {w : Word} (e : ErrCode) (d : Word) (hp : s.pending = .command w)
    (hf : s.errFirst = .noError) : (s.raise e d).errFirstOp = opField w := by
  rw [State.raise_errFirstOp, if_pos hf, State.pendingOp, hp]
  rfl

/-- Settles O4: the rows are the commands, and an illegal word is a command that does nothing but fail. -/
theorem illegalWordFails : Obligations.IllegalWordFails := by
  refine ⟨rfl, fun w => ⟨no_match_iff_error, fun h => ?_, fun h hop => ?_, fun h s => ?_⟩⟩
  · exact decode_of_unlisted fun i hi => by
      obtain ⟨r, hr, he⟩ := row_opcode_iff.2 ⟨i, hi⟩
      exact h r hr he
  · obtain ⟨e, he⟩ := no_match_iff_error.1 h
    obtain ⟨i, hi⟩ := row_opcode_iff.1 hop
    exact decode_reserved he hi
  · obtain ⟨e, he⟩ := no_match_iff_error.1 h
    obtain ⟨hfail, hkeep⟩ := fails_alone s .illegalCmd 0#32
    exact ⟨_, runWord_illegal he s, hfail, hkeep, raise_errFirstOp_command _ _⟩

end Sys2Proof.Safety
end

section
/-! The operations of the host agent and the host's step (30 R124, R125). -/
namespace Sys2Proof.Safety
open Sys2Proof.Machine

/-- WAIT stays while BUSY (30 R125). -/
theorem waitStays_statusWord (s : State) : waitStays (.word s.statusWord) = s.busy := by
  rw [waitStays, statusWord_eq, BitVec.getLsbD_append]
  simp [State.busy]

/-- W leaves what its bus write leaves, and moves the host agent (30 R124). -/
theorem hostWrite_eq (s : State) (a : Offset) (d : Word) :
    s.hostWrite a d = { (s.busWrite a d).2 with host := { s.host with
      lastResp := (s.busWrite a d).1, index := s.host.index + 1 } } := by
  rw [← action_host (s.busWrite_action a d)]
  rfl

/-- R also records what its bus read returns (30 R124). -/
theorem hostRead_eq (s : State) (a : Offset) :
    s.hostRead a = { (s.busRead a).2 with host := { s.host with
      lastResp := (s.busRead a).1, recorded := s.host.recorded ++ [(s.busRead a).1], index := s.host.index + 1 } } := by
  rw [← action_host (s.busRead_action a)]
  rfl

/-- WAIT records STATUS, and the index moves only where BUSY is 0 (30 R125). -/
theorem hostWait_eq (s : State) :
    s.hostWait = { s with host := { s.host with
      lastResp := .word s.statusWord, recorded := s.host.recorded ++ [.word s.statusWord]
      index := if s.pending = .idle then s.host.index + 1 else s.host.index } } := by
  rw [State.hostWait, State.busRead_status, waitStays_statusWord]
  by_cases hp : s.pending = .idle
  · simp [State.busy, hp, State.hostRecord, State.hostAdvance]
  · simp [State.busy, hp, State.hostRecord]

/-- When it is not the engine's turn the host moves. -/
theorem step_eq_hostStep {s : State} (h : s.engineTurn = false) : step s = hostStep s := by
  rw [step, h, if_neg Bool.false_ne_true]

theorem hostStep_of_op {s : State} {op : HostOp} (h : s.nextOp = some op) : hostStep s =
    hostOp (if s.rstN = true ∧ s.pending ≠ .idle then { s with sched := s.sched.tick } else s) op := by
  simp only [hostStep, h, Bool.and_eq_true, busy_iff]

theorem hostStep_of_ended {s : State} (h : s.nextOp = none) : hostStep s = .next s := by
  rw [hostStep, h]

/-- Settles O59: each operation by its transaction on the bus, and the host's step by the operation at its index. -/
theorem hostOperations : Obligations.HostOperations := by
  refine ⟨fun s hr => ⟨?_, fun a => ?_, fun a d => ?_⟩, fun s op ht hop => ?_, fun s ht hend => ?_⟩
  · rw [hostOp, if_pos hr, hostWait_eq]
  · rw [hostOp, if_pos hr, hostRead_eq]
  · rw [hostOp, if_pos hr, hostWrite_eq]
  · rw [step_eq_hostStep ht, hostStep_of_op hop]
  · rw [step_eq_hostStep ht, hostStep_of_ended (List.getElem?_eq_none hend)]

end Sys2Proof.Safety
end

section
/-! The commands of the bit buffer (40 R142 to R145): when each completes, and what a fresh buffer holds. -/
namespace Sys2Proof.Machine

/-! ### The checks before a write -/

/-- A buffer fits in CART exactly when it has at most PACK_BITS bits (40 R142). -/
theorem fitsCart_iff {p : Params} {n : Nat} (h : 4 ≤ p.cartBytes) :
    fitsCart p n = true ↔ n ≤ 8 * (p.cartBytes - 4) := by
  rw [fitsCart, decide_eq_true_iff, ceil8]
  omega

theorem State.bitInBounds_iff (s : State) (i : Nat) :
    s.bitInBounds i = true ↔ i < s.be32.toNat ∧ 4 + i / 8 < s.params.cartBytes := by
  rw [State.bitInBounds, Bool.and_eq_true, decide_eq_true_iff, decide_eq_true_iff, bitAddr]

theorem State.not_bitInBounds {s : State} {i : Nat} (h : s.be32.toNat ≤ i ∨ s.params.cartBytes ≤ 4 + i / 8) :
    ¬ s.bitInBounds i = true := by
  rw [State.bitInBounds_iff]
  omega

/-! ### The buffer after a completion, and a fresh one -/

@[simp] theorem State.be32_done (s : State) (r : Word) : (s.done r).be32 = s.be32 := rfl

@[simp] theorem State.getbit_done (s : State) (r : Word) (i : Nat) : (s.done r).getbit i = s.getbit i := rfl

theorem State.memRead_setMem_fill (s : State) (m : ByteMem) (a n b : Nat) (v : Byte) :
    (s.setMem m ((s.mem m).fill a n v)).memRead m b = if a ≤ b ∧ b < a + n then v else s.memRead m b := by
  rw [State.memRead, State.mem_setMem, if_pos rfl, Memory.peek_fill, State.setMem_epoch, State.memRead]
  split <;> rfl

/-- The header of a fresh buffer is its bit count (40 R143). -/
@[simp] theorem State.be32_createBuffer (s : State) (n : Nat) : (s.createBuffer n).be32 = BitVec.ofNat 32 n :=
  State.be32_setHdr _ _

/-- Past the header, a fresh buffer has CART zeroed to its end, and nothing past it written (40 R143). -/
theorem State.memRead_createBuffer (s : State) (n : Nat) {a : Nat} (h : 4 ≤ a) :
    (s.createBuffer n).memRead .cart a = if a < s.params.cartBytes then 0#8 else s.memRead .cart a := by
  change (State.setHdr (s.setMem .cart _) _).memRead .cart a = _
  rw [State.memRead_setHdr _ _ _ _ fun _ => h, State.memRead_setMem_fill]
  exact if_congr (by omega) rfl rfl

/-! ### The commands -/

theorem exec_bbCreate_fits {s : State} {n : Nat} (h : fitsCart s.params n = true) :
    exec (.bbCreate n) s = .next ((s.createBuffer n).done (BitVec.ofNat 32 (ceil8 n))) := if_pos h

theorem exec_bbCreate_tooLong {s : State} {n : Nat} (h : ¬ fitsCart s.params n = true) :
    exec (.bbCreate n) s = .next (s.raise .capacity 0#32) := if_neg h

theorem exec_bbSet_inBounds {s : State} {i : Nat} (b : Bool) (h : s.bitInBounds i = true) :
    exec (.bbSet i b) s = .next ((s.setbit i b).done 0#32) := congrArg _ (if_pos h)

theorem exec_bbSet_outOfBounds {s : State} {i : Nat} (b : Bool) (h : ¬ s.bitInBounds i = true) :
    exec (.bbSet i b) s = .next (s.raise .bounds 0#32) := congrArg _ (if_neg h)

theorem exec_bbGet_inBounds {s : State} {i : Nat} (h : s.bitInBounds i = true) :
    exec (.bbGet i) s = .next (s.done (bit0 (s.getbit i))) := congrArg _ (if_pos h)

theorem exec_bbGet_outOfBounds {s : State} {i : Nat} (h : ¬ s.bitInBounds i = true) :
    exec (.bbGet i) s = .next (s.raise .bounds 0#32) := congrArg _ (if_neg h)

end Sys2Proof.Machine

namespace Sys2Proof.Safety
open Sys2Proof.Machine

/-- Settles O34: what fits in CART also fits in the header's word and in CART_LEN, so all three numbers read back. -/
theorem bbCreateZeroes : Obligations.BbCreateZeroes := by
  rintro n s ⟨⟨-, h8, h64k⟩, -⟩
  refine ⟨fun hn => ?_, fun hn => ?_⟩
  · have he := exec_bbCreate_fits ((fitsCart_iff (by omega)).2 hn)
    refine ⟨_, he, ?_, ?_, fun a h4 ha => ?_, fun a ha => ?_, completed_done _ rfl rfl, exec_frame he⟩
    · rw [State.be32_done, State.be32_createBuffer, BitVec.toNat_ofNat, Nat.mod_eq_of_lt (by omega)]
    · exact (BitVec.toNat_ofNat ..).trans (Nat.mod_eq_of_lt (by rw [ceil8]; omega))
    · rw [State.memRead_done, State.memRead_createBuffer s n h4, if_pos ha]
    · rw [State.memRead_done, State.memRead_createBuffer s n (by omega), if_neg (by omega)]
  · have hf : ¬ fitsCart s.params n = true := by rw [fitsCart_iff (by omega)]; omega
    exact ⟨_, exec_bbCreate_tooLong hf, fails_alone ..⟩

/-- Settles O35: in bounds the command is one `setbit`, whose bit and byte are known; else it does nothing but fail. -/
theorem bbSetWritesOneBit : Obligations.BbSetWritesOneBit := by
  refine fun i b s => ⟨fun hi hc => ?_, fun h => ?_⟩
  · have he := exec_bbSet_inBounds b ((s.bitInBounds_iff i).2 ⟨hi, hc⟩)
    refine ⟨_, he, ?_, fun j hj => ?_, fun a ha => ?_, ?_, completed_done _ rfl rfl, exec_frame he⟩
    · rw [State.getbit_done, State.getbit_setbit, if_pos rfl]
    · rw [State.getbit_done, State.getbit_setbit, if_neg hj]
    · rw [State.memRead_done, State.memRead_setbit _ _ _ _ _ fun _ => ha]
    · rw [State.be32_done, State.be32_setbit]
  · exact ⟨_, exec_bbSet_outOfBounds b (State.not_bitInBounds h), fails_alone ..⟩

/-- Settles O36: in bounds RESULT is the word of the bit `getbit` reads; else the command does nothing but fail. -/
theorem bbGetReadsBit : Obligations.BbGetReadsBit := by
  refine fun i s => ⟨fun hi hc => ?_, fun h => ?_⟩
  · have he := exec_bbGet_inBounds ((s.bitInBounds_iff i).2 ⟨hi, hc⟩)
    have hr : bit0 (s.getbit i) = if (s.memRead .cart (4 + i / 8)).getLsbD (i % 8) then 1#32 else 0#32 := by
      rw [State.getbit, bitAddr]
      cases (s.memRead .cart (4 + i / 8)).getLsbD (i % 8) <;> rfl
    exact ⟨_, he, hr ▸ completed_done _ rfl rfl, exec_frame he⟩
  · exact ⟨_, exec_bbGet_outOfBounds (State.not_bitInBounds h), fails_alone ..⟩

end Sys2Proof.Safety
end

section
/-! BUILD ends at the node it made last, with one leaf for each counted symbol (41 R153; 42 R166, R167). -/
namespace Sys2Proof.Safety
open Sys2Proof.Machine

/-! ### The root of BUILD's tree -/

/-- The first entry offered to an empty queue is on top (42 R161). -/
theorem heapAt_offer_empty {b : Builder} (x : Slot) (h : b.hsize = 0) : heapAt (b.offer x).heap 0 = x := by
  simp only [Builder.offer, h, siftUp]
  rw [heapAt_heapSet _ _ _ _ (by decide) (by decide), if_pos rfl]

/-- An entry alone in the queue is the slot allocated last. -/
def LoneIsNewest (b : Builder) : Prop := b.hsize = 1 → heapAt b.heap 0 = BitVec.ofNat 8 (b.cnt - 1)

theorem loneIsNewest_addLeaf (b : Builder) (y : Sym) (f : Word) : LoneIsNewest (b.addLeaf y f) := fun h =>
  heapAt_offer_empty _ (Nat.succ.inj h)

theorem loneIsNewest_combine (b : Builder) (a c : Slot) : LoneIsNewest (b.combine a c) := fun h =>
  heapAt_offer_empty _ (Nat.succ.inj h)

theorem loneIsNewest_addLeaves (freq : Sym → Word) (fuel y : Nat) {b : Builder} (h : LoneIsNewest b) :
    LoneIsNewest (addLeaves freq fuel y b) := by
  induction fuel generalizing y b with
  | zero => exact h
  | succ fuel ih =>
    refine ih (y + 1) ?_
    split
    · exact h
    · exact loneIsNewest_addLeaf _ _ _

theorem loneIsNewest_leavesOffered (s : State) : LoneIsNewest s.leavesOffered :=
  loneIsNewest_addLeaves _ _ _ nofun

/-- BUILD's main loop ends with the slot allocated last as the root (42 R166, R167). -/
theorem buildLoop_root {fuel : Nat} {b b' : Builder} {root : Slot} (h : LoneIsNewest b)
    (hb : buildLoop fuel b = some (root, b')) : root = BitVec.ofNat 8 (b'.cnt - 1) := by
  induction fuel generalizing b with
  | zero => cases hb
  | succ fuel ih =>
    rw [buildLoop] at hb
    split at hb
    · cases hb
    · rename_i h0
      simp only at hb
      split at hb
      · rename_i h1
        cases hb
        rw [hsize_poll] at h1
        exact h (by omega)
      · exact ih (loneIsNewest_combine _ _ _) hb

/-- The root of BUILD's tree is the last of its slots (42 R166). -/
theorem toNat_root_add_one {s : State} {root : Slot} {b : Builder}
    (hb : buildLoop s.leavesOffered.hsize s.leavesOffered = some (root, b)) : root.toNat + 1 = b.cnt := by
  obtain ⟨-, -, hcount, hroom⟩ := built_of_buildLoop hb
  rw [buildLoop_root (loneIsNewest_leavesOffered s) hb, toNat_slot (by omega)]
  omega

/-- The one tree that BUILD leaves is read from its root, with every symbol (42 R166). -/
theorem Built.reads {root : Slot} {b : Builder} {ys : List Sym} (h : Built root b ys) :
    ∃ tr, readTree b.nodes 128 root = some tr ∧ tr.symbols.Perm ys := by
  obtain ⟨ts, ht, -, hm⟩ := h.forest
  obtain ⟨p, us, hp, htail, rfl⟩ := List.forall₂_cons_left_iff.1 ht
  obtain rfl := List.forall₂_nil_left_iff.1 htail
  rw [List.flatMap_cons, List.flatMap_nil, List.append_nil] at hm
  exact ⟨p.1, (hp.read (hm.length_eq.trans_le h.room)).1, hm⟩

/-! ### The number of counted symbols -/

/-- FREQ lists the counts in the order of the symbols (10 R51). -/
theorem toList_freq (s : State) : s.freq.toList = ((List.range 128).map (BitVec.ofNat 7)).map s.freqAt := by
  refine List.ext_getElem (by simp) fun k hk _ => ?_
  have hk : k < 128 := by simpa using hk
  simp [State.freqAt, Nat.mod_eq_of_lt hk]

/-- DISTINCT is the number of counted symbols (10 R43). -/
theorem length_countedSyms {s : State} (hc : CountInv s) (hp : s.pending ≠ .init) :
    (countedSyms s).length = s.distinct.toNat := by
  rw [hc.distinct hp, toList_freq, List.countP_map, List.countP_eq_length_filter]
  rfl

/-! ### The command -/

theorem exec_build_empty {s : State} (h : s.distinct = 0#8) : exec .build s = .next (s.raise .invalidInput 0#32) :=
  if_pos h

theorem exec_build_built {s : State} {root : Slot} {b : Builder} (h : s.distinct ≠ 0#8)
    (hb : buildLoop s.leavesOffered.hsize s.leavesOffered = some (root, b)) :
    exec .build s = .next ((s.installTree root b).done (root.setWidth 32)) := by
  change execBuild s = _
  rw [execBuild, if_neg h, hb]

/-- Settles O25: BUILD's loop leaves one tree of the counted symbols in `2k - 1` slots, and its root is the last of them. -/
theorem buildMakesTree : Obligations.BuildMakesTree := by
  refine ⟨fun s hd => ⟨_, exec_build_empty hd, fails_alone ..⟩, fun s hc hp hd => ?_⟩
  obtain ⟨root, b, hb, hbuilt⟩ := build_built (countedSyms_ne_nil hc hp hd)
  have he := exec_build_built hd hb
  have hok := hbuilt.treeOk (nodup_countedSyms s)
  have hcnt : ((s.installTree root b).done (root.setWidth 32)).nodeCnt.toNat = b.cnt := toNat_nodeCnt hok.small
  obtain ⟨tr, htr, hread, -⟩ := tree?_of_ok (s := (s.installTree root b).done (root.setWidth 32)) (hcnt.symm ▸ hok)
  obtain ⟨tr', hread', hsyms⟩ := hbuilt.reads
  obtain rfl := Option.some.inj (hread.symm.trans hread')
  have hcount := hbuilt.count
  have hroot := toNat_root_add_one hb
  rw [length_countedSyms hc hp] at hcount
  refine ⟨_, tr, he, htr, hsyms, hcnt.symm ▸ hok, rfl, rfl, ?_, ?_, completed_done _ rfl rfl, exec_frame he⟩
  · omega
  · change root.toNat = _
    omega

end Sys2Proof.Safety
end

section
/-! The FrequencyTable commands (41 R150 to R152): when each completes, and the counts of a text. -/
namespace Sys2Proof.Safety
open Sys2Proof.Machine

/-! ### The commands -/

/-- Settles O22: all of format N's field is reserved, and the command writes the counts alone. -/
theorem freqClrZeroesCounts : Obligations.FreqClrZeroesCounts := by
  refine ⟨rfl, fun w hop hres s => ?_, fun s => ⟨_, rfl, fun y => ?_, rfl, rfl, rfl, completed_done _ rfl rfl, ?_⟩⟩
  · have hd := decode_of_opcode (i := .freqClr) hop
    rw [if_neg (by simpa only [Instr.reserved, BitVec.and_allOnes] using hres)] at hd
    exact ⟨_, runWord_illegal hd s, (fails_alone ..).1⟩
  · simp [State.freqAt, zeroFreq]
  · exact exec_frame (i := .freqClr) rfl

/-- An in-range character is a symbol (30 R116). -/
theorem charSym_inRange {c : Nat} (h : c < 128) : charSym c = some (BitVec.ofNat 7 c) := if_pos h

theorem charSym_outOfRange {c : Nat} (h : 128 ≤ c) : charSym c = none := if_neg (by omega)

theorem toNat_ofNat_char {c : Nat} (h : c < 128) : (BitVec.ofNat 7 c).toNat = c := by
  simpa using h

theorem exec_freqAdd_dropped {s : State} {c : Nat} (h : 128 ≤ c) :
    exec (.freqAdd c) s = .next (s.dropChar.done 0#32) := by
  change execFreqAdd c s = _
  rw [execFreqAdd, charSym_outOfRange h]

theorem exec_freqAdd_full {s : State} {c : Nat} (h : c < 128) (hf : s.freqTotal = 0xFFFFFFFF#32) :
    exec (.freqAdd c) s = .next (s.raise .freqOverflow 0#32) := by
  change execFreqAdd c s = _
  rw [execFreqAdd, charSym_inRange h]
  exact if_pos hf

theorem exec_freqAdd_counted {s : State} {c : Nat} (h : c < 128) (hf : s.freqTotal ≠ 0xFFFFFFFF#32) :
    exec (.freqAdd c) s = .next ((s.countSym (BitVec.ofNat 7 c)).done (s.freqAt (BitVec.ofNat 7 c) + 1#32)) := by
  change execFreqAdd c s = _
  rw [execFreqAdd, charSym_inRange h]
  refine (if_neg hf).trans ?_
  rw [State.freqAt_countSym, if_pos rfl]

/-- DROP_CNT saturates (10 R42). -/
theorem toNat_dropCnt_dropChar (s : State) : s.dropChar.dropCnt.toNat = min (s.dropCnt.toNat + 1) 0xFFFFFFFF := by
  have hlt := s.dropCnt.isLt
  simp only [State.dropChar]
  split
  · rename_i hfull
    rw [hfull]
    rfl
  · rename_i hfull
    have hne : s.dropCnt.toNat ≠ 0xFFFFFFFF := fun e => hfull (BitVec.eq_of_toNat_eq e)
    have hadd : (s.dropCnt + 1#32).toNat = s.dropCnt.toNat + 1 := BitVec.toNat_add_of_lt (by simp; omega)
    omega

/-- Settles O23: out of range only DROP_CNT moves, a full total is refused before any write, and else one symbol is
counted. -/
theorem freqAddCounts : Obligations.FreqAddCounts := by
  refine fun c s => ⟨fun hc => ?_, fun hc hf => ⟨_, exec_freqAdd_full hc hf, fails_alone ..⟩, fun hc hf => ?_⟩
  · have he := exec_freqAdd_dropped (s := s) hc
    exact ⟨_, he, toNat_dropCnt_dropChar s, rfl, rfl, rfl, completed_done _ rfl rfl, exec_frame he⟩
  · have he := exec_freqAdd_counted hc hf
    refine ⟨_, he, fun y => ?_, rfl, rfl, rfl, completed_done _ rfl rfl, exec_frame he⟩
    have hy : y.toNat = c ↔ y = BitVec.ofNat 7 c := by rw [BitVec.toNat_eq, toNat_ofNat_char hc]
    change (s.countSym _).freqAt y = _
    rw [State.freqAt_countSym]
    simp only [hy]
    split
    · rename_i e; rw [e]
    · rfl

/-! ### The counts of a text -/

/-- The four count registers hold the counts of `text` (41 R152). -/
structure CountsOf (text : List Nat) (s : State) : Prop where
  freq : ∀ y : Sym, (s.freqAt y).toNat = text.count y.toNat
  total : s.freqTotal.toNat = (inRange text).length
  distinct : s.distinct.toNat = (inRange text).dedup.length
  dropped : s.dropCnt.toNat = text.countP (fun c => decide (128 ≤ c))

/-- The order of the characters does not matter (41 R152). -/
theorem CountsOf.perm {text text' : List Nat} {s : State} (h : CountsOf text s) (hp : text.Perm text') :
    CountsOf text' s where
  freq y := (h.freq y).trans (hp.count_eq _)
  total := h.total.trans (hp.filterMap charSym).length_eq
  distinct := h.distinct.trans (hp.filterMap charSym).dedup.length_eq
  dropped := h.dropped.trans (hp.countP_eq _)

theorem inRange_cons_dropped {c : Nat} (h : 128 ≤ c) (text : List Nat) : inRange (c :: text) = inRange text :=
  List.filterMap_cons_none (charSym_outOfRange h)

theorem inRange_cons_counted {c : Nat} (h : c < 128) (text : List Nat) :
    inRange (c :: text) = BitVec.ofNat 7 c :: inRange text :=
  List.filterMap_cons_some (charSym_inRange h)

theorem length_inRange_le (text : List Nat) : (inRange text).length ≤ text.length := List.length_filterMap_le ..

/-- A symbol occurs in a text when its number does. -/
theorem mem_inRange {y : Sym} {text : List Nat} : y ∈ inRange text ↔ y.toNat ∈ text := by
  induction text with
  | nil => simp [inRange]
  | cons c text ih =>
    by_cases hc : c < 128
    · rw [inRange_cons_counted hc, List.mem_cons, List.mem_cons, ih, BitVec.toNat_eq, toNat_ofNat_char hc]
    · rw [inRange_cons_dropped (by omega), List.mem_cons, ih]
      have := y.isLt
      exact (or_iff_right (by omega)).symm

/-- A symbol's count is 0 until it first occurs. -/
theorem CountsOf.freqAt_eq_zero {text : List Nat} {s : State} (h : CountsOf text s) (y : Sym) :
    s.freqAt y = 0#32 ↔ y ∉ inRange text := by
  rw [mem_inRange, ← List.count_eq_zero, ← h.freq, BitVec.toNat_eq]
  rfl

/-- An out-of-range character raises DROP_CNT alone, below its saturation (41 R151). -/
theorem CountsOf.freqAdd_dropped {text : List Nat} {s : State} {c : Nat} (h : CountsOf text s) (hc : 128 ≤ c)
    (hlen : text.length + 1 < 2 ^ 32) : ∃ t, exec (.freqAdd c) s = .next t ∧ CountsOf (c :: text) t := by
  obtain ⟨t, he, hdrop, hfreq, htotal, hdist, -, -⟩ := (freqAddCounts c s).1 hc
  refine ⟨t, he, fun y => ?_, ?_, ?_, ?_⟩
  · have hy := y.isLt
    have hsame : t.freqAt y = s.freqAt y := by simp only [State.freqAt, hfreq]
    rw [hsame, h.freq, List.count_cons_of_ne (by omega)]
  · rw [htotal, h.total, inRange_cons_dropped hc]
  · rw [hdist, h.distinct, inRange_cons_dropped hc]
  · have hle : text.countP (fun c => decide (128 ≤ c)) ≤ text.length := List.countP_le_length
    rw [hdrop, h.dropped, List.countP_cons_of_pos (by simpa using hc)]
    omega

/-- A symbol below a full total raises its count, the total and, on its first occurrence, DISTINCT; none wraps
(41 R151). -/
theorem CountsOf.freqAdd_counted {text : List Nat} {s : State} {c : Nat} (h : CountsOf text s) (hc : c < 128)
    (hlen : text.length + 1 < 2 ^ 32) : ∃ t, exec (.freqAdd c) s = .next t ∧ CountsOf (c :: text) t := by
  have hle := length_inRange_le text
  have hroom : s.freqTotal.toNat + 1 < 2 ^ 32 := by rw [h.total]; omega
  have hfull : s.freqTotal ≠ 0xFFFFFFFF#32 := fun e => by rw [e] at hroom; exact absurd hroom (by decide)
  obtain ⟨t, he, hfreq, htotal, hdrop, hdist, -, -⟩ := (freqAddCounts c s).2.2 hc hfull
  refine ⟨t, he, fun y => ?_, ?_, ?_, ?_⟩
  · rw [hfreq]
    by_cases hy : y.toNat = c
    · have hcount : (s.freqAt y).toNat ≤ text.length := h.freq y ▸ List.count_le_length
      rw [if_pos hy, BitVec.toNat_add_of_lt (by simp; omega), h.freq, hy, List.count_cons_self]
      rfl
    · rw [if_neg hy, h.freq, List.count_cons_of_ne (Ne.symm hy)]
  · rw [htotal, inRange_cons_counted hc, BitVec.toNat_add_of_lt hroom, h.total]
    rfl
  · rw [hdist, inRange_cons_counted hc]
    by_cases hmem : BitVec.ofNat 7 c ∈ inRange text
    · rw [if_neg (by rwa [h.freqAt_eq_zero, not_not]), List.dedup_cons_of_mem hmem, h.distinct]
    · have h128 := length_le_of_nodup (BitVec.ofNat 7 c :: inRange text).nodup_dedup
      rw [List.dedup_cons_of_notMem hmem, List.length_cons] at h128 ⊢
      rw [if_pos ((h.freqAt_eq_zero _).2 hmem), BitVec.toNat_add_of_lt (by rw [h.distinct]; simp; omega), h.distinct]
      rfl
  · rw [hdrop, h.dropped, List.countP_cons_of_neg (by simpa using hc)]

/-- FREQ_ADD of one more character of a text shorter than `2 ^ 32`. -/
theorem CountsOf.freqAdd {text : List Nat} {s : State} (h : CountsOf text s) (c : Nat)
    (hlen : text.length + 1 < 2 ^ 32) : ∃ t, exec (.freqAdd c) s = .next t ∧ CountsOf (c :: text) t :=
  (lt_or_ge c 128).elim (h.freqAdd_counted · hlen) (h.freqAdd_dropped · hlen)

/-- FREQ_ADD over the rest of a text (41 R152). -/
theorem CountsOf.execAll_freqAdd (rest : List Nat) {seen : List Nat} {s : State} (h : CountsOf seen s)
    (hlen : rest.length + seen.length < 2 ^ 32) :
    ∃ t, execAll (rest.map .freqAdd) s = .next t ∧ CountsOf (rest ++ seen) t := by
  induction rest generalizing seen s with
  | nil => exact ⟨s, rfl, h⟩
  | cons c rest ih =>
    rw [List.length_cons] at hlen
    obtain ⟨u, hu, hc⟩ := h.freqAdd c (by omega)
    obtain ⟨t, ht, hcounts⟩ := ih hc (by rw [List.length_cons]; omega)
    exact ⟨t, by rw [List.map_cons, execAll, hu]; exact ht, hcounts.perm List.perm_middle⟩

/-- Settles O24: FREQ_CLR leaves the counts of the empty text, and each FREQ_ADD counts one more character. -/
theorem freqTableOfText : Obligations.FreqTableOfText := by
  intro text s hlen
  obtain ⟨u, hu, hfreq, htotal, hdrop, hdist, -, -⟩ := freqClrZeroesCounts.2.2 s
  have h0 : CountsOf [] u :=
    ⟨fun y => by rw [hfreq]; rfl, by rw [htotal]; rfl, by rw [hdist]; rfl, by rw [hdrop]; rfl⟩
  obtain ⟨t, ht, hcounts⟩ := h0.execAll_freqAdd text hlen
  rw [List.append_nil] at hcounts
  exact ⟨t, by rw [execAll, hu]; exact ht, hcounts.freq, hcounts.total, hcounts.distinct, hcounts.dropped⟩

end Sys2Proof.Safety
end

section
/-! The queue is a heap: the sift loops move a hole until the entry that fills it is in order (42 R160 to R162). -/
namespace Sys2Proof.Machine

/-! ### The sift loops, turn by turn -/

/-- Sift-up ends at the top, or under a parent no more frequent (42 R161). -/
theorem siftUp_stay {key : Slot → Nat} {x : Slot} {k : Nat} {h : Vector Slot 128} (fuel : Nat)
    (hs : k = 0 ∨ key (heapAt h ((k - 1) / 2)) ≤ key x) : siftUp key x fuel k h = heapSet h k x := by
  cases fuel with
  | zero => rfl
  | succ fuel =>
    rw [siftUp]
    split
    · rfl
    · exact if_pos (hs.resolve_left ‹_›)

/-- Sift-up goes on above a more frequent parent, which comes down (42 R161). -/
theorem siftUp_climb {key : Slot → Nat} {x : Slot} {fuel k : Nat} {h : Vector Slot 128} (hf : k ≤ fuel) (h0 : 0 < k)
    (hlt : key x < key (heapAt h ((k - 1) / 2))) :
    siftUp key x fuel k h = siftUp key x fuel ((k - 1) / 2) (heapSet h k (heapAt h ((k - 1) / 2))) := by
  obtain ⟨f, rfl⟩ : ∃ f, fuel = f + 1 := ⟨fuel - 1, by omega⟩
  rw [siftUp, if_neg (by omega)]
  exact (if_neg (by omega)).trans (siftUp_fuel _ _ _ _ _ _ (by omega) (by omega))

/-- Sift-down ends where there is no child (42 R162). -/
theorem siftDown_childless {key : Slot → Nat} {x : Slot} {n k : Nat} {h : Vector Slot 128} (fuel : Nat)
    (hk : n / 2 ≤ k) : siftDown key x n fuel k h = heapSet h k x := by
  cases fuel with
  | zero => rfl
  | succ fuel => exact if_neg (by omega)

/-- Sift-down ends above a lesser child no less frequent (42 R162). -/
theorem siftDown_stay {key : Slot → Nat} {x : Slot} {n k : Nat} {h : Vector Slot 128} (fuel : Nat)
    (hle : key x ≤ key (heapAt h (lesserChild key n k h))) : siftDown key x n fuel k h = heapSet h k x := by
  cases fuel with
  | zero => rfl
  | succ fuel =>
    rw [siftDown]
    split
    · exact if_pos hle
    · rfl

/-- Sift-down goes on below a less frequent child, which comes up (42 R162). -/
theorem siftDown_sink {key : Slot → Nat} {x : Slot} {n fuel k : Nat} {h : Vector Slot 128} (hf : n ≤ fuel + k)
    (hk : k < n / 2) (hlt : key (heapAt h (lesserChild key n k h)) < key x) :
    siftDown key x n fuel k h =
      siftDown key x n fuel (lesserChild key n k h) (heapSet h k (heapAt h (lesserChild key n k h))) := by
  obtain ⟨f, rfl⟩ : ∃ f, fuel = f + 1 := ⟨fuel - 1, by omega⟩
  have hc := lt_lesserChild key n k h
  rw [siftDown, if_pos hk]
  exact (if_neg (by omega)).trans (siftDown_fuel _ _ _ _ _ _ _ (by omega) (by omega))

theorem lesserChild_eq (key : Slot → Nat) (n k : Nat) (h : Vector Slot 128) :
    lesserChild key n k h =
      if 2 * k + 2 < n ∧ key (heapAt h (2 * k + 2)) < key (heapAt h (2 * k + 1)) then 2 * k + 2 else 2 * k + 1 := rfl

/-- No child is less frequent than the lesser one. -/
theorem lesserChild_le {key : Slot → Nat} {n k j : Nat} (h : Vector Slot 128) (hj : j < n) (h0 : 0 < j)
    (hp : (j - 1) / 2 = k) : key (heapAt h (lesserChild key n k h)) ≤ key (heapAt h j) := by
  obtain rfl | rfl : j = 2 * k + 1 ∨ j = 2 * k + 2 := by omega
  all_goals
    rw [lesserChild_eq]
    split <;> omega

/-- The lesser child is a child. -/
theorem parent_lesserChild (key : Slot → Nat) (n k : Nat) (h : Vector Slot 128) :
    (lesserChild key n k h - 1) / 2 = k := by
  rw [lesserChild_eq]
  split <;> omega

end Sys2Proof.Machine

namespace Sys2Proof.Safety
open Sys2Proof.Machine

/-! ### A heap with a hole -/

/-- No entry of the first `m` lies below its parent. -/
def HeapSorted (key : Slot → Nat) (h : Vector Slot 128) (m : Nat) : Prop :=
  ∀ j, 0 < j → j < m → key (heapAt h ((j - 1) / 2)) ≤ key (heapAt h j)

theorem heapOrdered_iff (b : Builder) : HeapOrdered b ↔ HeapSorted (nodeKey b.nodes) b.heap b.hsize := .rfl

/-- The first `m` entries are in order but for a hole at `k`: its children lie above its parent. -/
structure HoleAt (key : Slot → Nat) (h : Vector Slot 128) (m k : Nat) : Prop where
  away : ∀ j, 0 < j → j < m → j ≠ k → (j - 1) / 2 ≠ k → key (heapAt h ((j - 1) / 2)) ≤ key (heapAt h j)
  across : ∀ j, 0 < j → j < m → (j - 1) / 2 = k → 0 < k → key (heapAt h ((k - 1) / 2)) ≤ key (heapAt h j)

section
variable {key : Slot → Nat} {x : Slot} {h : Vector Slot 128} {m k : Nat}

/-- The top of a heap is an entry of least frequency (42 R160). -/
theorem HeapSorted.top_le (hs : HeapSorted key h m) (j : Nat) (hj : j < m) : key (heapAt h 0) ≤ key (heapAt h j) := by
  induction j using Nat.strong_induction_on with
  | h j ih =>
    rcases Nat.eq_zero_or_pos j with rfl | h0
    · exact Nat.le_refl _
    · exact (ih ((j - 1) / 2) (by omega) (by omega)).trans (hs j h0 hj)

/-- The position after the last entry is a hole. -/
theorem HeapSorted.hole_end (hs : HeapSorted key h m) : HoleAt key h (m + 1) m where
  away j h0 hj hne _ := hs j h0 (by omega)
  across j h0 hj hp _ := by omega

/-- Without its top and its last entry a heap has a hole at the top. -/
theorem HeapSorted.hole_top (hs : HeapSorted key h (m + 1)) : HoleAt key h m 0 where
  away j h0 hj _ _ := hs j h0 (by omega)
  across j _ _ _ h0 := absurd h0 (Nat.lt_irrefl 0)

/-- An entry in order with the hole's parent and its children fills the hole. -/
theorem HoleAt.fill (hh : HoleAt key h m k) (hm : m ≤ 128) (hk : k < m)
    (hup : 0 < k → key (heapAt h ((k - 1) / 2)) ≤ key x)
    (hdown : ∀ j, 0 < j → j < m → (j - 1) / 2 = k → key x ≤ key (heapAt h j)) :
    HeapSorted key (heapSet h k x) m := by
  intro j h0 hj
  rw [heapAt_heapSet _ _ _ _ (by omega) (by omega), heapAt_heapSet _ _ _ _ (by omega) (by omega)]
  by_cases hjk : j = k
  · subst hjk
    rw [if_pos rfl, if_neg (by omega)]
    exact hup h0
  · rw [if_neg hjk]
    split
    · exact hdown j h0 hj ‹_›
    · exact hh.away j h0 hj hjk ‹_›

/-- The hole goes up when its parent comes down. -/
theorem HoleAt.up (hh : HoleAt key h m k) (hm : m ≤ 128) (hk : k < m) (h0 : 0 < k) :
    HoleAt key (heapSet h k (heapAt h ((k - 1) / 2))) m ((k - 1) / 2) where
  away j hj0 hj hne hpne := by
    have hjk : j ≠ k := by rintro rfl; exact hpne rfl
    rw [heapAt_heapSet _ _ _ _ (by omega) (by omega), heapAt_heapSet _ _ _ _ (by omega) (by omega), if_neg hjk]
    split
    · exact hh.across j hj0 hj ‹_› h0
    · exact hh.away j hj0 hj hjk ‹_›
  across j hj0 hj hp hp0 := by
    have hpar := hh.away ((k - 1) / 2) hp0 (by omega) (by omega) (by omega)
    rw [heapAt_heapSet _ _ _ _ (by omega) (by omega), heapAt_heapSet _ _ _ _ (by omega) (by omega), if_neg (by omega)]
    split
    · exact hpar
    · exact hpar.trans (hp ▸ hh.away j hj0 hj ‹_› (by omega))

/-- The hole goes down when its lesser child comes up. -/
theorem HoleAt.down (hh : HoleAt key h m k) (hm : m ≤ 128) (hk : k < m / 2) :
    HoleAt key (heapSet h k (heapAt h (lesserChild key m k h))) m (lesserChild key m k h) := by
  have hlt := lesserChild_lt key h hk
  have hgt := lt_lesserChild key m k h
  have hpar := parent_lesserChild key m k h
  constructor
  · intro j hj0 hj hne hpne
    rw [heapAt_heapSet _ _ _ _ (by omega) (by omega), heapAt_heapSet _ _ _ _ (by omega) (by omega)]
    by_cases hjk : j = k
    · subst hjk
      rw [if_pos rfl, if_neg (by omega)]
      exact hh.across _ (by omega) hlt hpar hj0
    · rw [if_neg hjk]
      split
      · exact lesserChild_le h hj hj0 ‹_›
      · exact hh.away j hj0 hj hjk ‹_›
  · intro j hj0 hj hp _
    rw [hpar, heapAt_heapSet _ _ _ _ (by omega) (by omega), heapAt_heapSet _ _ _ _ (by omega) (by omega), if_pos rfl,
      if_neg (by omega)]
    exact hp ▸ hh.away j hj0 hj (by omega) (by omega)

/-- Sift-up fills a hole whose children lie above the entry (42 R161). -/
theorem HoleAt.sorted_siftUp {fuel : Nat} (hh : HoleAt key h m k) (hm : m ≤ 128) (hk : k < m) (hf : k ≤ fuel)
    (hdown : ∀ j, 0 < j → j < m → (j - 1) / 2 = k → key x ≤ key (heapAt h j)) :
    HeapSorted key (siftUp key x fuel k h) m := by
  induction k using Nat.strong_induction_on generalizing h with
  | h k ih =>
    by_cases hstay : k = 0 ∨ key (heapAt h ((k - 1) / 2)) ≤ key x
    · rw [siftUp_stay fuel hstay]
      exact hh.fill hm hk (fun h0 => hstay.resolve_left (by omega)) hdown
    · rw [not_or, not_le] at hstay
      obtain ⟨hne, hlt⟩ := hstay
      have h0 := Nat.pos_of_ne_zero hne
      rw [siftUp_climb hf h0 hlt]
      refine ih _ (by omega) (hh.up hm hk h0) (by omega) (by omega) fun j hj0 hj hp => ?_
      rw [heapAt_heapSet _ _ _ _ (by omega) (by omega)]
      split
      · exact hlt.le
      · exact hlt.le.trans (hp ▸ hh.away j hj0 hj ‹_› (by omega))

/-- Sift-down fills a hole whose parent lies below the entry (42 R162). -/
theorem HoleAt.sorted_siftDown {fuel : Nat} (hh : HoleAt key h m k) (hm : m ≤ 128) (hk : k < m) (hf : m ≤ fuel + k)
    (hup : 0 < k → key (heapAt h ((k - 1) / 2)) ≤ key x) : HeapSorted key (siftDown key x m fuel k h) m := by
  induction hd : m - k using Nat.strong_induction_on generalizing k h with
  | h d ih =>
    by_cases hk2 : k < m / 2
    · rcases Nat.lt_or_ge (key (heapAt h (lesserChild key m k h))) (key x) with hlt | hle
      · have hcm := lesserChild_lt key h hk2
        have hkc := lt_lesserChild key m k h
        rw [siftDown_sink hf hk2 hlt]
        refine ih _ (by omega) (hh.down hm hk2) hcm (by omega) (fun _ => ?_) rfl
        rw [parent_lesserChild, heapAt_heapSet _ _ _ _ (by omega) (by omega), if_pos rfl]
        exact hlt.le
      · rw [siftDown_stay fuel hle]
        exact hh.fill hm hk hup fun j hj0 hj hp => hle.trans (lesserChild_le h hj hj0 hp)
    · rw [siftDown_childless fuel (by omega)]
      exact hh.fill hm hk hup fun j hj0 hj hp => by omega

end

/-! ### `offer` and `poll` -/

theorem heapOrdered_offer {b : Builder} (x : Slot) (h : b.hsize < 128) (ho : HeapOrdered b) :
    HeapOrdered (b.offer x) :=
  ((heapOrdered_iff b).1 ho).hole_end.sorted_siftUp h (Nat.lt_succ_self _) (Nat.le_refl _) fun j h0 hj hp => by omega

/-- Under a parent no more frequent the entry offered stays at the end (42 R161). -/
theorem entries_offer_stay {b : Builder} {x : Slot} (h : b.hsize < 128)
    (hle : nodeKey b.nodes (heapAt b.heap ((b.hsize - 1) / 2)) ≤ nodeKey b.nodes x) :
    entries (b.offer x) = entries b ++ [x] := by
  rw [entries_eq, hsize_offer, Builder.offer, siftUp_stay _ (.inr hle)]
  exact heapList_heapSet _ _ h

/-- Settles O29: the hole at the end goes up until the entry fills it, and the entries are only permuted. -/
theorem heapOfferKeepsOrder : Obligations.HeapOfferKeepsOrder :=
  ⟨fun b x h ho => ⟨heapOrdered_offer x h ho, offer_perm b x h, hsize_offer b x, nodes_offer b x,
      fun _ he => entries_offer_stay h he.ge⟩,
    fun _ _ _ hf => siftUp_fuel _ _ _ _ _ _ (Nat.le_refl _) hf,
    fun _ _ fuel _ _ hf => ⟨siftUp_stay fuel, siftUp_climb hf⟩⟩

/-- `poll` sifts the last entry down from the top (42 R162). -/
theorem heap_poll {b : Builder} {fuel : Nat} (h : 2 ≤ b.hsize) (hf : b.hsize ≤ fuel + 1) :
    b.poll.2.heap =
      siftDown (nodeKey b.nodes) (heapAt b.heap (b.hsize - 1)) (b.hsize - 1) fuel 0 b.heap :=
  (if_pos (by omega)).trans (siftDown_fuel _ _ _ _ _ _ _ (by omega) (by omega))

theorem heapOrdered_poll {b : Builder} (h : b.hsize ≤ 128) (ho : HeapOrdered b) : HeapOrdered b.poll.2 := by
  rw [heapOrdered_iff] at ho ⊢
  rcases Nat.lt_or_ge b.hsize 2 with h2 | h2
  · intro j h0 hj
    rw [hsize_poll] at hj
    omega
  · obtain ⟨n, hn⟩ := Nat.exists_eq_add_of_le' h2
    rw [heap_poll (fuel := n + 1) h2 (by omega), hsize_poll, nodes_poll]
    rw [hn] at ho ⊢
    exact ho.hole_top.sorted_siftDown (by omega) (by omega) (Nat.le_refl _) nofun

/-- `poll` answers an entry of least frequency (42 R160). -/
theorem poll_le {b : Builder} (ho : HeapOrdered b) {y : Slot} (hy : y ∈ entries b) :
    nodeKey b.nodes b.poll.1 ≤ nodeKey b.nodes y := by
  obtain ⟨j, hj, rfl⟩ := List.mem_map.1 hy
  exact ((heapOrdered_iff b).1 ho).top_le j (List.mem_range.1 hj)

/-- Settles O30: the top is an entry of least frequency, and the hole it leaves goes down until the last entry fills
it. -/
theorem heapPollTakesLeast : Obligations.HeapPollTakesLeast := by
  refine ⟨fun b h0 h ho => ⟨rfl, fun y => poll_le ho, heapOrdered_poll h ho, poll_perm b h0 h, ?_, nodes_poll b⟩,
    fun b fuel => heap_poll, fun key x n fuel k h hf => ⟨siftDown_childless fuel, ?_⟩⟩
  · rw [hsize_poll]
    omega
  · rintro c hk rfl
    exact ⟨siftDown_stay fuel, siftDown_sink hf hk⟩

end Sys2Proof.Safety
end

section
/-! BUILD turn by turn: the leaves in ascending order, then the two least entries joined until one is left
(42 R163 to R167). -/
namespace Sys2Proof.Safety
open Sys2Proof.Machine

/-- BUILD's working state before the first leaf (42 R166). -/
def emptyQueue (s : State) : Builder := { nodes := zeroNodes, cnt := 0, heap := s.heap, hsize := 0 }

/-- A new node in slot NODE_CNT, offered: what a leaf and a combination have in common (42 R163, R164). -/
def offerNew (b : Builder) (n : Node) : Builder :=
  Builder.offer { b with nodes := setNode b.nodes (BitVec.ofNat 8 b.cnt) n, cnt := b.cnt + 1 } (BitVec.ofNat 8 b.cnt)

theorem addLeaf_eq_offerNew (b : Builder) (y : Sym) (f : Word) : b.addLeaf y f = offerNew b (Node.mkLeaf y f) := rfl

theorem combine_eq_offerNew (b : Builder) (a c : Slot) :
    b.combine a c =
      offerNew b (Node.mkInternal ((nodeAt b.nodes a).nfreq + (nodeAt b.nodes c).nfreq) a c) := rfl

theorem hsize_offerNew (b : Builder) (n : Node) : (offerNew b n).hsize = b.hsize + 1 := rfl

theorem cnt_offerNew (b : Builder) (n : Node) : (offerNew b n).cnt = b.cnt + 1 := rfl

/-- One turn of the main loop: two polls and their combination, the first polled as LEFT (42 R166). -/
def joinLeast (b : Builder) : Builder := b.poll.2.poll.2.combine b.poll.1 b.poll.2.poll.1

theorem hsize_joinLeast (b : Builder) : (joinLeast b).hsize = b.hsize - 1 - 1 + 1 := rfl

theorem cnt_joinLeast (b : Builder) : (joinLeast b).cnt = b.cnt + 1 := rfl

/-- The leaf loop adds the leaves of the counted symbols from `y` on, in their order (42 R163). -/
theorem addLeaves_eq_foldl (freq : Sym → Word) (fuel y : Nat) (b : Builder) :
    addLeaves freq fuel y b =
      (((List.range' y fuel).map (BitVec.ofNat 7)).filter (fun z => decide (freq z ≠ 0#32))).foldl
        (fun b z => b.addLeaf z (freq z)) b := by
  induction fuel generalizing y b with
  | zero => rfl
  | succ fuel ih =>
    rw [addLeaves, ih, List.range'_succ, List.map_cons]
    by_cases h0 : freq (BitVec.ofNat 7 y) = 0#32
    · rw [if_pos h0, List.filter_cons_of_neg (by simpa using h0)]
    · rw [if_neg h0, List.filter_cons_of_pos (by simpa using h0), List.foldl_cons]

theorem leavesOffered_eq_foldl (s : State) :
    s.leavesOffered = (countedSyms s).foldl (fun b y => b.addLeaf y (s.freqAt y)) (emptyQueue s) := by
  rw [countedSyms, List.range_eq_range']
  exact addLeaves_eq_foldl s.freqAt 128 0 _

/-! ### The main loop -/

theorem buildLoop_empty (fuel : Nat) {b : Builder} (h : b.hsize = 0) : buildLoop fuel b = none := by
  cases fuel with
  | zero => rfl
  | succ fuel => exact if_pos h

/-- A lone entry is the root (42 R167). -/
theorem buildLoop_one (fuel : Nat) {b : Builder} (h : b.hsize = 1) : buildLoop (fuel + 1) b = some b.poll := by
  have h1 : b.poll.2.hsize = 0 := by rw [hsize_poll]; omega
  rw [buildLoop, if_neg (by omega)]
  exact if_pos h1

theorem buildLoop_joinLeast (fuel : Nat) {b : Builder} (h : 2 ≤ b.hsize) :
    buildLoop (fuel + 1) b = buildLoop fuel (joinLeast b) := by
  have h1 : b.poll.2.hsize ≠ 0 := by rw [hsize_poll]; omega
  rw [buildLoop, if_neg (by omega)]
  exact if_neg h1

/-- A BUILD that completes with something counted installs what its main loop answers (42 R166). -/
theorem exec_build_inv {s t : State} (hd : s.distinct ≠ 0#8) (h : exec .build s = .next t) :
    ∃ root b, buildLoop s.leavesOffered.hsize s.leavesOffered = some (root, b) ∧
      t = (s.installTree root b).done (root.setWidth 32) := by
  change execBuild s = _ at h
  rw [execBuild, if_neg hd] at h
  split at h
  · cases h
  · rename_i root b hb
    cases h
    exact ⟨root, b, hb, rfl⟩

theorem hsize_leavesOffered_le (s : State) : s.leavesOffered.hsize ≤ 128 :=
  (growing_leavesOffered s).queue.trans (growing_leavesOffered s).room

/-- Settles O27: the leaf loop folds `addLeaf` over the counted symbols, and a turn of the main loop is two polls and
one combination; with 128 turns allowed it ends as with HSIZE of them. -/
theorem buildCombinesPolled : Obligations.BuildCombinesPolled := by
  refine ⟨leavesOffered_eq_foldl, addLeaf_eq_offerNew, combine_eq_offerNew, fun b fuel hf => ?_, fun s t hd h => ?_⟩
  · constructor
    · intro h1
      obtain ⟨f, rfl⟩ := Nat.exists_eq_add_of_le' (h1 ▸ hf)
      exact buildLoop_one f h1
    · intro h2
      obtain ⟨f, rfl⟩ : ∃ f, fuel = f + 1 := ⟨fuel - 1, by omega⟩
      have hj := hsize_joinLeast b
      change _ = buildLoop (f + 1) (joinLeast b)
      rw [buildLoop_joinLeast f h2]
      exact buildLoop_fuel _ _ _ (by omega) (by omega)
  · obtain ⟨root, b, hb, rfl⟩ := exec_build_inv hd h
    exact ⟨root, b, buildLoop_fuel _ _ _ (Nat.le_refl _) (hsize_leavesOffered_le s) ▸ hb, rfl, rfl, rfl⟩

end Sys2Proof.Safety
end

section
/-! BUILD reads no entry of HEAP that it has not written, so its tree is a function of FREQ alone (42 R165). -/
namespace Sys2Proof.Safety
open Sys2Proof.Machine

/-! ### The sift loops never read the hole -/

/-- The first `m` entries of both heaps agree but at `k`. -/
def AgreeBut (h h' : Vector Slot 128) (m k : Nat) : Prop := ∀ j, j < m → j ≠ k → heapAt h' j = heapAt h j

section
variable {h h' : Vector Slot 128} {m k : Nat}

theorem AgreeBut.fill (ha : AgreeBut h h' m k) (hm : m ≤ 128) (hk : k < m) (x : Slot) {j : Nat} (hj : j < m) :
    heapAt (heapSet h' k x) j = heapAt (heapSet h k x) j := by
  rw [heapAt_heapSet _ _ _ _ (by omega) (by omega), heapAt_heapSet _ _ _ _ (by omega) (by omega)]
  split
  · rfl
  · exact ha j hj ‹_›

/-- The hole moves to `p` when one entry fills it in both heaps. -/
theorem AgreeBut.move (ha : AgreeBut h h' m k) (hm : m ≤ 128) (hk : k < m) (x : Slot) (p : Nat) :
    AgreeBut (heapSet h k x) (heapSet h' k x) m p := fun _ hj _ => ha.fill hm hk x hj

theorem AgreeBut.siftUp_agree (ha : AgreeBut h h' m k) (hm : m ≤ 128) (hk : k < m) (key : Slot → Nat) (x : Slot)
    (fuel : Nat) {j : Nat} (hj : j < m) :
    heapAt (siftUp key x fuel k h') j = heapAt (siftUp key x fuel k h) j := by
  induction fuel generalizing k h h' with
  | zero => exact ha.fill hm hk x hj
  | succ fuel ih =>
    simp only [siftUp]
    by_cases h0 : k = 0
    · rw [if_pos h0, if_pos h0]
      exact ha.fill hm hk x hj
    · have hp : (k - 1) / 2 < m := by omega
      have hpk : (k - 1) / 2 ≠ k := by omega
      rw [if_neg h0, if_neg h0, ha _ hp hpk]
      split
      · exact ha.fill hm hk x hj
      · exact ih (ha.move hm hk _ _) hp

theorem AgreeBut.lesserChild_agree (ha : AgreeBut h h' m k) (hk : k < m / 2) (key : Slot → Nat) :
    lesserChild key m k h' = lesserChild key m k h := by
  rw [lesserChild_eq, lesserChild_eq, ha (2 * k + 1) (by omega) (by omega)]
  by_cases h2 : 2 * k + 2 < m
  · rw [ha _ h2 (by omega)]
  · rw [if_neg fun h => h2 h.1, if_neg fun h => h2 h.1]

theorem AgreeBut.siftDown_agree (ha : AgreeBut h h' m k) (hm : m ≤ 128) (hk : k < m) (key : Slot → Nat) (x : Slot)
    (fuel : Nat) {j : Nat} (hj : j < m) :
    heapAt (siftDown key x m fuel k h') j = heapAt (siftDown key x m fuel k h) j := by
  induction fuel generalizing k h h' with
  | zero => exact ha.fill hm hk x hj
  | succ fuel ih =>
    simp only [siftDown]
    by_cases h2 : k < m / 2
    · have hc := lesserChild_lt key h h2
      have hck := (lt_lesserChild key m k h).ne'
      rw [if_pos h2, if_pos h2, ha.lesserChild_agree h2, ha _ hc hck]
      split
      · exact ha.fill hm hk x hj
      · exact ih (ha.move hm hk _ _) hc
    · rw [if_neg h2, if_neg h2]
      exact ha.fill hm hk x hj

end

/-! ### Two runs of BUILD -/

/-- The two builders differ at most in the stale entries of HEAP, those from HSIZE on. -/
structure SameQueue (b b' : Builder) : Prop where
  nodes : b'.nodes = b.nodes
  cnt : b'.cnt = b.cnt
  hsize : b'.hsize = b.hsize
  heap : ∀ j, j < b.hsize → heapAt b'.heap j = heapAt b.heap j

section
variable {b b' : Builder}

theorem SameQueue.offer (h : SameQueue b b') (hb : b.hsize < 128) (x : Slot) :
    SameQueue (b.offer x) (b'.offer x) where
  nodes := h.nodes
  cnt := h.cnt
  hsize := congrArg (· + 1) h.hsize
  heap j hj := by
    have ha : AgreeBut b.heap b'.heap (b.hsize + 1) b.hsize := fun i hi hne => h.heap i (by omega)
    simp only [Builder.offer, h.nodes, h.hsize]
    exact ha.siftUp_agree hb (Nat.lt_succ_self _) _ x _ hj

theorem SameQueue.offerNew (h : SameQueue b b') (hb : b.hsize < 128) (n : Node) :
    SameQueue (offerNew b n) (offerNew b' n) := by
  rw [Safety.offerNew, Safety.offerNew, h.nodes, h.cnt]
  have hs : SameQueue { b with nodes := setNode b.nodes (BitVec.ofNat 8 b.cnt) n, cnt := b.cnt + 1 }
      { b' with nodes := setNode b.nodes (BitVec.ofNat 8 b.cnt) n, cnt := b.cnt + 1 } := ⟨rfl, rfl, h.hsize, h.heap⟩
  exact hs.offer hb _

theorem SameQueue.combine (h : SameQueue b b') (hb : b.hsize < 128) (a c : Slot) :
    SameQueue (b.combine a c) (b'.combine a c) := by
  rw [combine_eq_offerNew, combine_eq_offerNew, h.nodes]
  exact h.offerNew hb _

theorem SameQueue.poll_fst (h : SameQueue b b') (h0 : 0 < b.hsize) : b'.poll.1 = b.poll.1 := h.heap 0 h0

theorem SameQueue.poll_snd (h : SameQueue b b') (hb : b.hsize ≤ 128) : SameQueue b.poll.2 b'.poll.2 where
  nodes := h.nodes
  cnt := h.cnt
  hsize := congrArg (· - 1) h.hsize
  heap j hj := by
    rw [hsize_poll] at hj
    have hle : 2 ≤ b.hsize := by omega
    have hh := h.hsize
    have ha : AgreeBut b.heap b'.heap (b.hsize - 1) 0 := fun i hi _ => h.heap i (by omega)
    rw [heap_poll (fuel := b.hsize) hle (by omega), heap_poll (fuel := b.hsize) (by omega) (by omega), h.nodes, hh,
      h.heap (b.hsize - 1) (by omega)]
    exact ha.siftDown_agree (by omega) (by omega) _ _ _ hj

theorem SameQueue.joinLeast (h : SameQueue b b') (h2 : 2 ≤ b.hsize) (hb : b.hsize ≤ 128) :
    SameQueue (joinLeast b) (joinLeast b') := by
  have h1 := h.poll_snd hb
  have h1' : 0 < b.poll.2.hsize := by rw [hsize_poll]; omega
  rw [Safety.joinLeast, Safety.joinLeast, h.poll_fst (by omega), h1.poll_fst h1']
  refine (h1.poll_snd ?_).combine ?_ _ _
  · rw [hsize_poll]; omega
  · rw [hsize_poll, hsize_poll]; omega

theorem SameQueue.foldl_addLeaf (ys : List Sym) (freq : Sym → Word) (h : SameQueue b b')
    (hb : b.hsize + ys.length ≤ 128) :
    SameQueue (ys.foldl (fun b y => b.addLeaf y (freq y)) b) (ys.foldl (fun b y => b.addLeaf y (freq y)) b') := by
  induction ys generalizing b b' with
  | nil => exact h
  | cons y ys ih =>
    rw [List.length_cons] at hb
    exact ih (h.offerNew (by omega) (Node.mkLeaf y (freq y))) (show b.hsize + 1 + ys.length ≤ 128 by omega)

/-- From queues that agree the main loop answers the same root and the same tree (42 R165, R167). -/
theorem SameQueue.buildLoop {fuel : Nat} {root root' : Slot} {c c' : Builder} (h : SameQueue b b') (hb : b.hsize ≤ 128)
    (hc : buildLoop fuel b = some (root, c)) (hc' : buildLoop fuel b' = some (root', c')) :
    root' = root ∧ SameQueue c c' := by
  induction fuel generalizing b b' with
  | zero => cases hc
  | succ fuel ih =>
    obtain h0 | h1 | h2 : b.hsize = 0 ∨ b.hsize = 1 ∨ 2 ≤ b.hsize := by omega
    · rw [buildLoop_empty _ h0] at hc
      cases hc
    · rw [buildLoop_one _ h1] at hc
      rw [buildLoop_one _ (h.hsize.trans h1)] at hc'
      cases hc
      cases hc'
      exact ⟨h.poll_fst (by omega), h.poll_snd hb⟩
    · rw [buildLoop_joinLeast _ h2] at hc
      rw [buildLoop_joinLeast _ (h.hsize.symm ▸ h2)] at hc'
      exact ih (h.joinLeast h2 hb) (by rw [hsize_joinLeast]; omega) hc hc'

end

/-- The same counts fill the queue alike (42 R163, R165). -/
theorem sameQueue_leavesOffered {s s' : State} (h : s'.freq = s.freq) :
    SameQueue s.leavesOffered s'.leavesOffered := by
  have hfreq : s'.freqAt = s.freqAt := funext fun y => by simp only [State.freqAt, h]
  have hsyms : countedSyms s' = countedSyms s := by simp only [countedSyms, hfreq]
  have h0 : SameQueue (emptyQueue s) (emptyQueue s') := ⟨rfl, rfl, rfl, nofun⟩
  rw [leavesOffered_eq_foldl, leavesOffered_eq_foldl, hsyms, hfreq]
  exact h0.foldl_addLeaf _ _ ((Nat.zero_add _).trans_le (growing_leavesOffered s).room)

/-- Settles O28: the two runs' queues agree below HSIZE from the first leaf to the root. -/
theorem buildDependsOnCountsOnly : Obligations.BuildDependsOnCountsOnly := by
  intro s s' t t' hf hd hd' ht ht'
  obtain ⟨root, b, hb, rfl⟩ := exec_build_inv hd ht
  obtain ⟨root', b', hb', rfl⟩ := exec_build_inv hd' ht'
  have hq := sameQueue_leavesOffered hf
  rw [hq.hsize] at hb'
  obtain ⟨hroot, hsame⟩ := hq.buildLoop (hsize_leavesOffered_le s) hb hb'
  exact ⟨hsame.nodes, hroot, congrArg (BitVec.ofNat 9) hsame.cnt⟩

end Sys2Proof.Safety
end

section
/-! The frequencies of BUILD's tree: each turn joins the two least entries, no sum overflows, and an entry is never less
frequent than a node already joined (42 R163, R164, R168). -/
namespace Sys2Proof.Safety
open Sys2Proof.Machine

/-- Slot `i` joins two of the first `cnt` slots: its frequency is their exact sum, and LEFT is no more frequent. -/
structure Joins (nodes : Vector Node 256) (cnt : Nat) (i : Slot) : Prop where
  internal : (nodeAt nodes i).leaf = false
  left_lt : (nodeAt nodes i).left.toNat < cnt
  right_lt : (nodeAt nodes i).right.toNat < cnt
  sum : nodeKey nodes i = nodeKey nodes (nodeAt nodes i).left + nodeKey nodes (nodeAt nodes i).right
  le : nodeKey nodes (nodeAt nodes i).left ≤ nodeKey nodes (nodeAt nodes i).right

/-- The number of occurrences of the symbols `ys`. -/
def occurrences (freq : Sym → Word) (ys : List Sym) : Nat := (ys.map fun y => (freq y).toNat).sum

/-- BUILD's arena while the entries `roots` wait in the queue: the leaves of `ys` come first, every later slot joins two
slots, no less frequent than those joined before, and no entry is less frequent than a slot already joined. -/
structure Merging (freq : Sym → Word) (ys : List Sym) (nodes : Vector Node 256) (roots : List Slot) (cnt : Nat) :
    Prop where
  leaf : ∀ j (h : j < ys.length), nodeAt nodes (BitVec.ofNat 8 j) = Node.mkLeaf ys[j] (freq ys[j])
  leaves_le : ys.length ≤ cnt
  roots_lt : ∀ e ∈ roots, e.toNat < cnt
  total : (roots.map (nodeKey nodes)).sum = occurrences freq ys
  joins : ∀ i : Slot, ys.length ≤ i.toNat → i.toNat < cnt → Joins nodes cnt i
  rising : ∀ i k : Slot, ys.length ≤ i.toNat → i.toNat < k.toNat → k.toNat < cnt →
    nodeKey nodes (nodeAt nodes i).right ≤ nodeKey nodes (nodeAt nodes k).left
  least : ∀ i : Slot, ys.length ≤ i.toNat → i.toNat < cnt → ∀ e ∈ roots,
    nodeKey nodes (nodeAt nodes i).right ≤ nodeKey nodes e

section
variable {freq : Sym → Word} {ys : List Sym} {nodes : Vector Node 256} {roots : List Slot} {cnt : Nat}

/-! ### Writing the next slot -/

theorem nodeAt_setNode_self (nodes : Vector Node 256) (i : Slot) (n : Node) : nodeAt (setNode nodes i n) i = n := by
  rw [nodeAt_setNode, if_pos rfl]

theorem nodeAt_setNode_next (hc : cnt < 256) {j : Slot} (hj : j.toNat < cnt) (n : Node) :
    nodeAt (setNode nodes (BitVec.ofNat 8 cnt) n) j = nodeAt nodes j := by
  rw [nodeAt_setNode, if_neg]
  rintro rfl
  rw [toNat_slot hc] at hj
  exact Nat.lt_irrefl _ hj

theorem nodeKey_setNode_next (hc : cnt < 256) {j : Slot} (hj : j.toNat < cnt) (n : Node) :
    nodeKey (setNode nodes (BitVec.ofNat 8 cnt) n) j = nodeKey nodes j :=
  congrArg (fun m => m.nfreq.toNat) (nodeAt_setNode_next hc hj n)

theorem map_nodeKey_setNode_next (hc : cnt < 256) (hr : ∀ e ∈ roots, e.toNat < cnt) (n : Node) :
    roots.map (nodeKey (setNode nodes (BitVec.ofNat 8 cnt) n)) = roots.map (nodeKey nodes) :=
  List.map_congr_left fun e he => nodeKey_setNode_next hc (hr e he) n

/-- A slot of the first `cnt + 1` is one of the first `cnt` or the next one. -/
theorem slot_lt_succ {i : Slot} (h : i.toNat < cnt + 1) : i.toNat < cnt ∨ i = BitVec.ofNat 8 cnt := by
  rcases Nat.lt_succ_iff_lt_or_eq.1 h with h | rfl
  · exact .inl h
  · exact .inr (by rw [BitVec.ofNat_toNat, BitVec.setWidth_eq])

theorem Joins.setNode_next {i : Slot} (h : Joins nodes cnt i) (hc : cnt < 256) (hi : i.toNat < cnt) (n : Node) :
    Joins (setNode nodes (BitVec.ofNat 8 cnt) n) (cnt + 1) i := by
  obtain ⟨hin, hl, hr, hs, hle⟩ := h
  constructor <;> rw [nodeAt_setNode_next hc hi]
  · exact hin
  · exact Nat.lt_succ_of_lt hl
  · exact Nat.lt_succ_of_lt hr
  · rw [nodeKey_setNode_next hc hi, nodeKey_setNode_next hc hl, nodeKey_setNode_next hc hr]
    exact hs
  · rw [nodeKey_setNode_next hc hl, nodeKey_setNode_next hc hr]
    exact hle

theorem left_mkInternal (f : Word) (l r : Slot) : (Node.mkInternal f l r).left = l := rfl

theorem right_mkInternal (f : Word) (l r : Slot) : (Node.mkInternal f l r).right = r := rfl

/-- The frequency written by `combine` is the exact sum where it does not overflow (42 R164). -/
theorem nodeKey_mkInternal {a c : Slot} (i : Slot) (hlt : nodeKey nodes a + nodeKey nodes c < 2 ^ 32) :
    nodeKey (setNode nodes i (Node.mkInternal ((nodeAt nodes a).nfreq + (nodeAt nodes c).nfreq) a c)) i =
      nodeKey nodes a + nodeKey nodes c := by
  rw [nodeKey, nodeAt_setNode_self]
  exact BitVec.toNat_add_of_lt hlt

/-- The slot written by `combine` joins its two operands where their sum does not overflow (42 R164). -/
theorem joins_mkInternal {a c : Slot} (hc : cnt < 256) (ha : a.toNat < cnt) (hcl : c.toNat < cnt)
    (hle : nodeKey nodes a ≤ nodeKey nodes c) (hlt : nodeKey nodes a + nodeKey nodes c < 2 ^ 32) :
    Joins (setNode nodes (BitVec.ofNat 8 cnt)
      (Node.mkInternal ((nodeAt nodes a).nfreq + (nodeAt nodes c).nfreq) a c)) (cnt + 1) (BitVec.ofNat 8 cnt) := by
  constructor <;> rw [nodeAt_setNode_self]
  · rfl
  · exact Nat.lt_succ_of_lt ha
  · exact Nat.lt_succ_of_lt hcl
  · rw [nodeKey_mkInternal _ hlt, left_mkInternal, right_mkInternal, nodeKey_setNode_next hc ha,
      nodeKey_setNode_next hc hcl]
  · rw [left_mkInternal, right_mkInternal, nodeKey_setNode_next hc ha, nodeKey_setNode_next hc hcl]
    exact hle

/-! ### A leaf and a combination keep the arena so -/

theorem Merging.perm {roots' : List Slot} (h : Merging freq ys nodes roots cnt) (hp : roots.Perm roots') :
    Merging freq ys nodes roots' cnt where
  leaf := h.leaf
  leaves_le := h.leaves_le
  roots_lt e he := h.roots_lt e (hp.mem_iff.2 he)
  total := (hp.map _).sum_eq.symm.trans h.total
  joins := h.joins
  rising := h.rising
  least i hi hic e he := h.least i hi hic e (hp.mem_iff.2 he)

theorem merging_empty (freq : Sym → Word) (nodes : Vector Node 256) : Merging freq [] nodes [] 0 :=
  ⟨nofun, Nat.le_refl _, nofun, rfl, nofun, nofun, nofun⟩

/-- Before anything is joined, one more leaf (42 R163). -/
theorem Merging.addLeaf (h : Merging freq ys nodes roots cnt) (hcnt : cnt = ys.length) (hc : cnt < 256) (y : Sym) :
    Merging freq (ys ++ [y]) (setNode nodes (BitVec.ofNat 8 cnt) (Node.mkLeaf y (freq y)))
      (BitVec.ofNat 8 cnt :: roots) (cnt + 1) := by
  subst hcnt
  have hlen : (ys ++ [y]).length = ys.length + 1 := List.length_append
  constructor
  case leaf =>
    intro j hj
    rcases Nat.lt_succ_iff_lt_or_eq.1 (hlen ▸ hj) with hlt | rfl
    · rw [nodeAt_setNode_next hc (by rwa [toNat_slot (by omega)]), List.getElem_append_left hlt]
      exact h.leaf j hlt
    · rw [nodeAt_setNode_self, List.getElem_concat_length rfl]
  case leaves_le =>
    exact hlen.le
  case roots_lt =>
    rw [List.forall_mem_cons, toNat_slot hc]
    exact ⟨Nat.lt_succ_self _, fun e he => Nat.lt_succ_of_lt (h.roots_lt e he)⟩
  case total =>
    rw [List.map_cons, List.sum_cons, map_nodeKey_setNode_next hc h.roots_lt, h.total, nodeKey, nodeAt_setNode_self]
    simp [occurrences, Node.mkLeaf, Nat.add_comm]
  case joins =>
    exact fun i hi hic => by omega
  case rising =>
    exact fun i k hi hik hkc => by omega
  case least =>
    exact fun i hi hic => by omega

/-- Joining two entries, none of the others less frequent than the second (42 R164, R168). -/
theorem Merging.combine {a c : Slot} (h : Merging freq ys nodes (a :: c :: roots) cnt) (hc : cnt < 256)
    (hlt : occurrences freq ys < 2 ^ 32) (hac : nodeKey nodes a ≤ nodeKey nodes c)
    (hrest : ∀ e ∈ roots, nodeKey nodes c ≤ nodeKey nodes e) :
    Merging freq ys (setNode nodes (BitVec.ofNat 8 cnt)
      (Node.mkInternal ((nodeAt nodes a).nfreq + (nodeAt nodes c).nfreq) a c)) (BitVec.ofNat 8 cnt :: roots)
      (cnt + 1) := by
  obtain ⟨hleaf, hle, hroots, htotal, hjoins, hrising, hleast⟩ := h
  simp only [List.forall_mem_cons] at hroots hleast
  obtain ⟨ha, hcl, hroots⟩ := hroots
  simp only [List.map_cons, List.sum_cons] at htotal
  have hexact : nodeKey nodes a + nodeKey nodes c < 2 ^ 32 := by omega
  have hkey := nodeKey_mkInternal (BitVec.ofNat 8 cnt) hexact
  constructor
  case leaf =>
    intro j hj
    rw [nodeAt_setNode_next hc (by rw [toNat_slot (by omega)]; omega)]
    exact hleaf j hj
  case leaves_le =>
    exact Nat.le_succ_of_le hle
  case roots_lt =>
    rw [List.forall_mem_cons, toNat_slot hc]
    exact ⟨Nat.lt_succ_self _, fun e he => Nat.lt_succ_of_lt (hroots e he)⟩
  case total =>
    rw [List.map_cons, List.sum_cons, map_nodeKey_setNode_next hc hroots, hkey, Nat.add_assoc]
    exact htotal
  case joins =>
    intro i hi hic
    rcases slot_lt_succ hic with hic | rfl
    · exact (hjoins i hi hic).setNode_next hc hic _
    · exact joins_mkInternal hc ha hcl hac hexact
  case rising =>
    intro i k hi hik hkc
    have hic : i.toNat < cnt := by omega
    rw [nodeAt_setNode_next hc hic, nodeKey_setNode_next hc (hjoins i hi hic).right_lt]
    rcases slot_lt_succ hkc with hkc | rfl
    · rw [nodeAt_setNode_next hc hkc, nodeKey_setNode_next hc (hjoins k (by omega) hkc).left_lt]
      exact hrising i k hi hik hkc
    · rw [nodeAt_setNode_self, left_mkInternal, nodeKey_setNode_next hc ha]
      exact (hleast i hi hic).1
  case least =>
    intro i hi hic
    rw [List.forall_mem_cons, hkey]
    rcases slot_lt_succ hic with hic | rfl
    · obtain ⟨-, hic', hie⟩ := hleast i hi hic
      rw [nodeAt_setNode_next hc hic, nodeKey_setNode_next hc (hjoins i hi hic).right_lt]
      refine ⟨hic'.trans (Nat.le_add_left _ _), fun e he => ?_⟩
      rw [nodeKey_setNode_next hc (hroots e he)]
      exact hie e he
    · rw [nodeAt_setNode_self, right_mkInternal, nodeKey_setNode_next hc hcl]
      refine ⟨Nat.le_add_left _ _, fun e he => ?_⟩
      rw [nodeKey_setNode_next hc (hroots e he)]
      exact hrest e he

end

/-! ### BUILD keeps the arena so -/

theorem entries_offerNew (b : Builder) (n : Node) (h : b.hsize < 128) :
    (entries (offerNew b n)).Perm (BitVec.ofNat 8 b.cnt :: entries b) :=
  offer_perm { b with nodes := setNode b.nodes (BitVec.ofNat 8 b.cnt) n, cnt := b.cnt + 1 } _ h

/-- The entries' keys do not change when the next slot is written. -/
theorem heapOrdered_offerNew {b : Builder} (n : Node) (h : b.hsize < 128) (hc : b.cnt < 256)
    (hr : ∀ e ∈ entries b, e.toNat < b.cnt) (ho : HeapOrdered b) : HeapOrdered (offerNew b n) := by
  refine heapOrdered_offer _ h fun j h0 hj => ?_
  have hmem : ∀ i, i < b.hsize → (heapAt b.heap i).toNat < b.cnt := fun i hi =>
    hr _ (List.mem_map_of_mem (List.mem_range.2 hi))
  simp only at hj ⊢
  rw [nodeKey_setNode_next hc (hmem _ (by omega)), nodeKey_setNode_next hc (hmem _ hj)]
  exact ho j h0 hj

/-- BUILD's working state: the arena of `Merging` with the queue a heap, and room for the slots still to come. -/
structure MergingQueue (freq : Sym → Word) (ys : List Sym) (b : Builder) : Prop where
  arena : Merging freq ys b.nodes (entries b) b.cnt
  ordered : HeapOrdered b
  size : b.hsize ≤ 128
  room : b.cnt + b.hsize ≤ 256

/-- Before anything is joined, one more leaf (42 R163). -/
theorem MergingQueue.addLeaf {freq : Sym → Word} {ys : List Sym} {b : Builder} (h : MergingQueue freq ys b)
    (hc : b.cnt = ys.length) (hs : b.hsize = ys.length) (hl : ys.length < 128) (y : Sym) :
    MergingQueue freq (ys ++ [y]) (b.addLeaf y (freq y)) := by
  obtain ⟨harena, hord, -, -⟩ := h
  rw [addLeaf_eq_offerNew]
  refine ⟨?_, heapOrdered_offerNew _ (by omega) (by omega) harena.roots_lt hord, ?_, ?_⟩
  · exact (harena.addLeaf hc (by omega) y).perm (entries_offerNew b _ (by omega)).symm
  · rw [hsize_offerNew]; omega
  · rw [hsize_offerNew, cnt_offerNew]; omega

/-- The leaf loop (42 R163). -/
theorem MergingQueue.foldl_addLeaf {freq : Sym → Word} (ys : List Sym) {seen : List Sym} {b : Builder}
    (h : MergingQueue freq seen b) (hc : b.cnt = seen.length) (hs : b.hsize = seen.length)
    (hl : seen.length + ys.length ≤ 128) :
    MergingQueue freq (seen ++ ys) (ys.foldl (fun b y => b.addLeaf y (freq y)) b) := by
  induction ys generalizing seen b with
  | nil => rwa [List.append_nil]
  | cons y ys ih =>
    rw [List.length_cons] at hl
    rw [List.append_cons]
    have hlen : (seen ++ [y]).length = seen.length + 1 := List.length_append
    exact ih (h.addLeaf hc hs (by omega) y) ((congrArg (· + 1) hc).trans hlen.symm)
      ((congrArg (· + 1) hs).trans hlen.symm) (by omega)

theorem mergingQueue_leavesOffered (s : State) : MergingQueue s.freqAt (countedSyms s) s.leavesOffered := by
  have h0 : MergingQueue s.freqAt [] (emptyQueue s) :=
    ⟨merging_empty _ _, fun _ _ hj => absurd hj (Nat.not_lt_zero _), Nat.zero_le _, Nat.zero_le _⟩
  rw [leavesOffered_eq_foldl]
  exact h0.foldl_addLeaf (countedSyms s) rfl rfl ((Nat.zero_add _).trans_le (growing_leavesOffered s).room)

/-- One turn of the main loop joins the two least entries (42 R164, R166). -/
theorem MergingQueue.joinLeast {freq : Sym → Word} {ys : List Sym} {b : Builder} (h : MergingQueue freq ys b)
    (hlt : occurrences freq ys < 2 ^ 32) (h2 : 2 ≤ b.hsize) : MergingQueue freq ys (joinLeast b) := by
  obtain ⟨harena, hord, hsize, hroom⟩ := h
  have hh1 := hsize_poll b
  have hh2 := hsize_poll b.poll.2
  have hord1 := heapOrdered_poll hsize hord
  have hp1 := poll_perm b (by omega) hsize
  have hp2 := poll_perm b.poll.2 (by omega) (by omega)
  have hm := harena.perm (hp1.trans (hp2.cons _))
  have hac := poll_le hord (hp1.mem_iff.2 (.tail _ (hp2.mem_iff.2 (.head _))))
  have hcnt : b.poll.2.poll.2.cnt = b.cnt := rfl
  have hnew := hm.combine (by omega) hlt hac fun e he => poll_le hord1 (hp2.mem_iff.2 (.tail _ he))
  refine ⟨hnew.perm (entries_offerNew b.poll.2.poll.2 _ (by omega)).symm, ?_, ?_, ?_⟩
  · refine heapOrdered_offerNew _ (by omega) (by omega) (fun e he => ?_) (heapOrdered_poll (by omega) hord1)
    exact hm.roots_lt e (.tail _ (.tail _ he))
  · rw [hsize_joinLeast]; omega
  · rw [hsize_joinLeast, cnt_joinLeast]; omega

/-- The main loop ends with the arena joined under one root (42 R166, R167). -/
theorem MergingQueue.buildLoop {freq : Sym → Word} {ys : List Sym} {fuel : Nat} {b b' : Builder} {root : Slot}
    (h : MergingQueue freq ys b) (hlt : occurrences freq ys < 2 ^ 32) (hb : buildLoop fuel b = some (root, b')) :
    Merging freq ys b'.nodes [root] b'.cnt := by
  induction fuel generalizing b with
  | zero => cases hb
  | succ fuel ih =>
    obtain h0 | h1 | h2 : b.hsize = 0 ∨ b.hsize = 1 ∨ 2 ≤ b.hsize := by omega
    · rw [buildLoop_empty _ h0] at hb
      cases hb
    · rw [buildLoop_one _ h1] at hb
      cases hb
      have hp := poll_perm b (by omega) h.size
      rw [entries_eq b.poll.2, hsize_poll, h1] at hp
      exact h.arena.perm hp
    · rw [buildLoop_joinLeast _ h2] at hb
      exact ih (h.joinLeast hlt h2) hb

/-! ### The command -/

/-- Symbols that do not occur add nothing. -/
theorem sum_filter_counted (freq : Sym → Word) (ys : List Sym) :
    occurrences freq (ys.filter fun y => decide (freq y ≠ 0#32)) = occurrences freq ys := by
  induction ys with
  | nil => rfl
  | cons y ys ih =>
    simp only [occurrences, List.map_cons, List.sum_cons] at ih ⊢
    by_cases h : freq y = 0#32
    · rw [List.filter_cons_of_neg (by simpa using h), ih, h]
      exact (Nat.zero_add _).symm
    · rw [List.filter_cons_of_pos (by simpa using h), List.map_cons, List.sum_cons, ih]

/-- FREQ_TOTAL bounds every sum of frequencies (10 R41; 42 R166). -/
theorem occurrences_countedSyms {s : State} (hc : CountInv s) (hp : s.pending ≠ .init) :
    occurrences s.freqAt (countedSyms s) = s.freqTotal.toNat := by
  rw [countedSyms, sum_filter_counted, hc.total hp, toList_freq, List.map_map]
  rfl

/-- An internal slot comes after the leaves. -/
theorem Merging.leaves_le_of_internal {freq : Sym → Word} {ys : List Sym} {nodes : Vector Node 256} {roots : List Slot}
    {cnt : Nat} (h : Merging freq ys nodes roots cnt) {i : Slot} (hi : (nodeAt nodes i).leaf = false) :
    ys.length ≤ i.toNat := by
  by_contra hlt
  have := h.leaf i.toNat (by omega)
  rw [BitVec.ofNat_toNat, BitVec.setWidth_eq] at this
  rw [this] at hi
  cases hi

/-- Settles O26: the leaves come first, and every turn joins the two least entries with an exact sum, so the children of
a later node are no less frequent than those of an earlier one. -/
theorem buildNodeFrequencies : Obligations.BuildNodeFrequencies := by
  intro s t hc hp hd ht
  obtain ⟨root, b, hb, rfl⟩ := exec_build_inv hd ht
  have hlt : occurrences s.freqAt (countedSyms s) < 2 ^ 32 := occurrences_countedSyms hc hp ▸ s.freqTotal.isLt
  have hm := (mergingQueue_leavesOffered s).buildLoop hlt hb
  have hcnt : (BitVec.ofNat 9 b.cnt).toNat = b.cnt := by
    obtain ⟨-, -, hcount, hroom⟩ := built_of_buildLoop hb
    exact toNat_nodeCnt (by omega)
  change (∀ j h, nodeAt b.nodes _ = _) ∧ (∀ i : Slot, i.toNat < (BitVec.ofNat 9 b.cnt).toNat → _) ∧
    ∀ i k : Slot, _ → k.toNat < (BitVec.ofNat 9 b.cnt).toNat → _
  rw [hcnt]
  refine ⟨hm.leaf, fun i hi hin => ?_, fun i k hik hk hin => ?_⟩
  · have hj := hm.joins i (hm.leaves_le_of_internal hin) hi
    exact ⟨hj.sum, hj.le⟩
  · have hi := hm.leaves_le_of_internal hin
    obtain ⟨-, -, -, hsi, hlei⟩ := hm.joins i hi (by omega)
    obtain ⟨hkin, -, -, hsk, hlek⟩ := hm.joins k (by omega) hk
    have hrise := hm.rising i k hi hik hk
    exact ⟨hkin, by change nodeKey b.nodes i ≤ nodeKey b.nodes k; omega, hrise⟩

end Sys2Proof.Safety
end

section
/-! The code table holds the words of the tree's leaves, and no word starts with another (43 R175 to R178). -/
namespace Sys2Proof.Safety
open Sys2Proof.Machine

/-! ### Paths and words -/

theorem fst_paths (t : Tree) : (paths t).map Prod.fst = t.symbols := by
  induction t with
  | leaf y => rfl
  | node l r ihl ihr => simp [paths, Tree.symbols, ← ihl, ← ihr, Function.comp_def]

theorem fst_codeWords (t : Tree) : (codeWords t).map Prod.fst = t.symbols := by
  cases t with
  | leaf y => rfl
  | node l r => exact fst_paths (.node l r)

/-- Each leaf symbol has a word, and nothing else has (43 R178). -/
theorem mem_symbols_iff_codeWord {t : Tree} {y : Sym} : y ∈ t.symbols ↔ ∃ w, (y, w) ∈ codeWords t := by
  rw [← fst_codeWords]
  simp

/-- No word is empty (43 R176 for the lone leaf). -/
theorem codeWord_ne_nil {t : Tree} {e : Sym × List Bool} (he : e ∈ codeWords t) : e.2 ≠ [] := by
  cases t with
  | leaf y => rw [List.mem_singleton.1 he]; exact List.cons_ne_nil _ _
  | node l r =>
    rcases List.mem_append.1 he with h | h <;> obtain ⟨_, -, rfl⟩ := List.mem_map.1 h <;> exact List.cons_ne_nil _ _

/-- Two leaves of one tree part at some node, so neither path starts with the other. -/
theorem path_eq_of_prefix {t : Tree} {e f : Sym × List Bool} (he : e ∈ paths t) (hf : f ∈ paths t)
    (h : e.2 <+: f.2) : e = f := by
  induction t generalizing e f with
  | leaf y => rw [List.mem_singleton.1 he, List.mem_singleton.1 hf]
  | node l r ihl ihr =>
    rcases List.mem_append.1 he with he | he <;> rcases List.mem_append.1 hf with hf | hf <;>
      obtain ⟨a, ha, rfl⟩ := List.mem_map.1 he <;> obtain ⟨b, hb, rfl⟩ := List.mem_map.1 hf <;>
      obtain ⟨hbit, hrest⟩ := List.cons_prefix_cons.1 h
    · rw [ihl ha hb hrest]
    · cases hbit
    · cases hbit
    · rw [ihr ha hb hrest]

theorem codeWord_eq_of_prefix {t : Tree} {e f : Sym × List Bool} (he : e ∈ codeWords t) (hf : f ∈ codeWords t)
    (h : e.2 <+: f.2) : e = f := by
  cases t with
  | leaf y => rw [List.mem_singleton.1 he, List.mem_singleton.1 hf]
  | node l r => exact path_eq_of_prefix (t := .node l r) he hf h

/-! ### The walk of CODEGEN -/

/-- The path that the walk has followed to depth `d` (43 R175): bits `0` to `d - 1`. -/
def pathBits (p : BitVec 128) (d : Nat) : List Bool := (List.range d).map p.getLsbD

@[simp] theorem length_entryBits (e : CodeEntry) : (entryBits e).length = e.clen.toNat := by simp [entryBits]

/-- A path of at most 127 edges fits CLEN. -/
theorem entryBits_path {p : BitVec 128} {d : Nat} (h : d < 128) :
    entryBits { clen := BitVec.ofNat 7 d, cbits := p } = pathBits p d := by
  simp [entryBits, pathBits, Nat.mod_eq_of_lt h]

/-- A left edge adds the bit 0. -/
theorem pathBits_left {p : BitVec 128} {d : Nat} (hp : p.getLsbD d = false) :
    pathBits p (d + 1) = pathBits p d ++ [false] := by
  simp [pathBits, List.range_succ, hp]

/-- A right edge adds the bit 1 and changes no bit before it. -/
theorem pathBits_right {p : BitVec 128} {d : Nat} (h : d < 128) :
    pathBits (p ||| (1#128 <<< d)) (d + 1) = pathBits p d ++ [true] := by
  simp only [pathBits, List.range_succ, List.map_append, List.map_singleton]
  congr 1
  · refine List.map_congr_left fun j hj => ?_
    have := List.mem_range.1 hj
    simp [this]
  · simp [h]

/-- The walk below a path gives each leaf that path and then its own. A path is shorter than the number of leaves. -/
theorem codes_eq_paths (t : Tree) {p : BitVec 128} {d : Nat} (hp : ∀ j, d ≤ j → p.getLsbD j = false)
    (h1 : 1 < d + t.symbols.length) (h128 : d + t.symbols.length ≤ 128) :
    (t.codes p d).map (fun e => (e.1, entryBits e.2)) = (paths t).map (fun e => (e.1, pathBits p d ++ e.2)) := by
  induction t generalizing p d with
  | leaf y =>
    simp only [Tree.symbols, List.length_singleton] at h1 h128
    have hd : d ≠ 0 := by omega
    simp [Tree.codes, paths, hd, entryBits_path (p := p) (d := d) (by omega)]
  | node l r ihl ihr =>
    have := symbols_pos l
    have := symbols_pos r
    rw [Tree.symbols, List.length_append] at h128
    have hl : ∀ j, d + 1 ≤ j → p.getLsbD j = false := fun j hj => hp j (by omega)
    have hr : ∀ j, d + 1 ≤ j → (p ||| (1#128 <<< d)).getLsbD j = false := fun j hj => by
      have : j - d ≠ 0 := by omega
      simp [hl j hj, this]
    rw [Tree.codes, List.map_append, ihl hl (by omega) (by omega), ihr hr (by omega) (by omega),
      pathBits_left (hp d le_rfl), pathBits_right (by omega)]
    simp [paths, Function.comp_def]

/-- What CODEGEN writes from the root (43 R175, R176): the entry of each leaf is its word. -/
theorem codes_eq_codeWords {t : Tree} (h : t.symbols.length ≤ 128) :
    (t.codes 0#128 0).map (fun e => (e.1, entryBits e.2)) = codeWords t := by
  cases t with
  | leaf y => simp [Tree.codes, codeWords, entryBits]
  | node l r =>
    have := symbols_pos l
    have := symbols_pos r
    rw [codes_eq_paths _ (by simp) (by simp [Tree.symbols]; omega) (by omega)]
    simp [pathBits, codeWords]

/-! ### The table -/

/-- A symbol without a code keeps its entry. -/
theorem writeCodes_of_notMem {es : List (Sym × CodeEntry)} {v : Vector CodeEntry 128} {y : Sym}
    (h : y ∉ es.map Prod.fst) : (writeCodes es v)[y.toNat]'y.isLt = v[y.toNat]'y.isLt := by
  induction es generalizing v with
  | nil => rfl
  | cons e es ih =>
    rw [List.map_cons, List.mem_cons, not_or] at h
    rw [writeCodes, ih h.2, Vector.getElem_set_ne]
    exact fun hy => h.1 (BitVec.eq_of_toNat_eq hy.symm)

/-- No later write reaches a symbol's entry where the symbols are distinct. -/
theorem writeCodes_of_mem {es : List (Sym × CodeEntry)} {v : Vector CodeEntry 128} {e : Sym × CodeEntry}
    (hn : (es.map Prod.fst).Nodup) (he : e ∈ es) : (writeCodes es v)[e.1.toNat]'e.1.isLt = e.2 := by
  induction es generalizing v with
  | nil => cases he
  | cons f es ih =>
    rw [List.map_cons, List.nodup_cons] at hn
    rcases List.mem_cons.1 he with rfl | he
    · rw [writeCodes, writeCodes_of_notMem hn.1, Vector.getElem_set_self]
    · exact ih hn.2 he

theorem fst_codes (t : Tree) (p : BitVec 128) (d : Nat) : (t.codes p d).map Prod.fst = t.symbols := by
  induction t generalizing p d with
  | leaf y => rfl
  | node l r ihl ihr => rw [Tree.codes, Tree.symbols, List.map_append, ihl, ihr]

section
variable {s : State} {t : Tree}

/-- A leaf symbol's entry is its word (43 R175). -/
theorem entryBits_codeAt {e : Sym × List Bool} (hc : s.code = t.codeTable) (hn : t.symbols.Nodup)
    (he : e ∈ codeWords t) : entryBits (s.codeAt e.1) = e.2 := by
  rw [← codes_eq_codeWords (length_le_of_nodup hn)] at he
  obtain ⟨c, hmem, rfl⟩ := List.mem_map.1 he
  simp only [State.codeAt, hc, Tree.codeTable]
  rw [writeCodes_of_mem (by rwa [fst_codes]) hmem]

/-- Every other symbol's entry is zero (43 R175). -/
theorem codeAt_of_notMem {y : Sym} (hc : s.code = t.codeTable) (hy : y ∉ t.symbols) :
    s.codeAt y = CodeEntry.zero := by
  simp only [State.codeAt, hc, Tree.codeTable]
  rw [writeCodes_of_notMem (by rwa [fst_codes]), getElem_zeroCode]

/-- The leaf symbols are those with a code (43 R178). -/
theorem clen_pos_iff {y : Sym} (hc : s.code = t.codeTable) (hn : t.symbols.Nodup) :
    1 ≤ (s.codeAt y).clen.toNat ↔ y ∈ t.symbols := by
  refine ⟨fun h => ?_, fun h => ?_⟩
  · by_contra hy
    rw [codeAt_of_notMem hc hy] at h
    exact absurd h (by decide)
  · obtain ⟨w, hw⟩ := mem_symbols_iff_codeWord.1 h
    rw [← length_entryBits, entryBits_codeAt hc hn hw]
    exact List.length_pos_of_ne_nil (codeWord_ne_nil hw)

/-- A symbol with a code has a word of the tree as its entry. -/
theorem codeAt_mem_codeWords {y : Sym} (hc : s.code = t.codeTable) (hn : t.symbols.Nodup)
    (hy : (s.codeAt y).clen ≠ 0#7) : (y, entryBits (s.codeAt y)) ∈ codeWords t := by
  have hpos : 1 ≤ (s.codeAt y).clen.toNat := Nat.pos_of_ne_zero fun h => hy (BitVec.eq_of_toNat_eq h)
  obtain ⟨w, hw⟩ := mem_symbols_iff_codeWord.1 ((clen_pos_iff hc hn).1 hpos)
  rwa [entryBits_codeAt hc hn hw]

/-- While CODES_VALID is 1, CODE is the table of a tree with distinct symbols (10 R62, R63). -/
theorem codeTable_of_codesValid (ht : TreeInv s) (hc : CodeInv s) (hv : s.codesValid = true) :
    ∃ t, s.tree? = some t ∧ t.symbols.Nodup ∧ s.code = t.codeTable := by
  obtain ⟨htv, t, htree, hcode⟩ := hc.valid hv
  obtain ⟨u, hu, -, hn, -⟩ := tree?_of_ok (ht.ok htv)
  obtain rfl := Option.some.inj (hu.symm.trans htree)
  exact ⟨u, hu, hn, hcode⟩

end

/-! ### The statements -/

/-- Settles O32: both codes are words of one tree, and a word that starts another is that word. -/
theorem codesPrefixFree : Obligations.CodesPrefixFree := by
  intro s ht hc hv y z hyz hy hz hpre
  obtain ⟨t, -, hn, hcode⟩ := codeTable_of_codesValid ht hc hv
  have heq := codeWord_eq_of_prefix (codeAt_mem_codeWords hcode hn hy) (codeAt_mem_codeWords hcode hn hz) hpre
  exact hyz (Prod.mk.inj heq).1

/-- Settles O33: each leaf symbol has a nonempty word in the table, every other symbol the zero entry. -/
theorem codesComplete : Obligations.CodesComplete := by
  intro s ht hc hv
  obtain ⟨t, htree, hn, hcode⟩ := codeTable_of_codesValid ht hc hv
  exact ⟨t, htree, fun y => clen_pos_iff hcode hn⟩

/-- With a tree CODEGEN writes its table (43 R175). -/
theorem exec_codegen_of_tree {s : State} {t : Tree} (hv : s.treeValid = true) (ht : s.tree? = some t) :
    exec .codegen s =
      .next ({ s with code := t.codeTable, codesValid := true }.done (BitVec.ofNat 32 t.symbols.length)) := by
  change execCodegen s = _
  rw [execCodegen, if_pos hv, ht, ← t.length_codes 0#128 0]

/-- Without one it fails NO_TREE (43 R175). -/
theorem exec_codegen_of_noTree {s : State} (hv : s.treeValid = false) :
    exec .codegen s = .next (s.raise .noTree 0#32) := by
  change execCodegen s = _
  rw [execCodegen, if_neg (by simp [hv])]

/-- Settles O31: the table that CODEGEN writes holds the words of the tree, and it writes nothing but that table. -/
theorem codegenAssignsPaths : Obligations.CodegenAssignsPaths := by
  refine ⟨fun s ht hv => ?_, fun s hv => ⟨_, exec_codegen_of_noTree hv, fails_alone s .noTree 0#32⟩⟩
  obtain ⟨t, htree, -, hn, -⟩ := tree?_of_ok (ht.ok hv)
  exact ⟨_, t, htree, exec_codegen_of_tree hv htree, rfl, fun e he => entryBits_codeAt rfl hn he,
    fun y hy => codeAt_of_notMem rfl hy, completed_done _ rfl rfl,
    keeps_done _ (effect_frame (.installCodes s t hv htree))⟩

end Sys2Proof.Safety
end

section
/-! ENC_CHAR and the encoding of a text (44 R185 to R187). -/
namespace Sys2Proof.Machine

/-! ### The buffer after an append -/

/-- The append loop writes the bytes of its own bits alone (44 R185). -/
theorem State.memRead_setbits (s : State) (n : Nat) (f : Nat → Bool) (len j : Nat) {a : Nat}
    (h : ∀ i, n + j ≤ i → i < n + j + len → a ≠ bitAddr i) :
    (s.setbits n f len j).memRead .cart a = s.memRead .cart a := by
  induction len generalizing s j with
  | zero => rfl
  | succ len ih =>
    rw [State.setbits, ih _ _ fun i h1 h2 => h i (by omega) (by omega),
      State.memRead_setbit _ _ _ _ _ fun _ => h (n + j) (by omega) (by omega)]

/-- The header counts the appended bits (44 R185). -/
@[simp] theorem State.be32_appendCode (s : State) (e : CodeEntry) :
    (s.appendCode e).be32 = BitVec.ofNat 32 (s.be32.toNat + e.clen.toNat) :=
  State.be32_setHdr _ _

/-- The appended bits are the code's, at the end of the declared stream, and no other bit changes (44 R185). -/
theorem State.getbit_appendCode (s : State) (e : CodeEntry) (i : Nat) :
    (s.appendCode e).getbit i =
      if s.be32.toNat ≤ i ∧ i < s.be32.toNat + e.clen.toNat then e.cbits.getLsbD (i - s.be32.toNat)
      else s.getbit i := by
  change (State.setHdr _ _).getbit i = _
  rw [State.getbit_setHdr, State.getbit_setbits, Nat.add_zero]

/-- Past the header, only the bytes of the appended bits are written (44 R185). -/
theorem State.memRead_appendCode (s : State) (e : CodeEntry) {a : Nat} (h4 : 4 ≤ a)
    (h : a < bitAddr s.be32.toNat ∨ 4 + ceil8 (s.be32.toNat + e.clen.toNat) ≤ a) :
    (s.appendCode e).memRead .cart a = s.memRead .cart a := by
  change (State.setHdr _ _).memRead .cart a = _
  rw [State.memRead_setHdr _ _ _ _ fun _ => h4, State.memRead_setbits]
  intro i h1 h2
  unfold bitAddr ceil8 at *
  omega

end Sys2Proof.Machine

namespace Sys2Proof.Safety
open Sys2Proof.Machine

@[simp] theorem length_streamOf (s : State) : (streamOf s).length = s.be32.toNat := by simp [streamOf]

/-- The declared stream is followed by the code (44 R185), where the new bit count fits the header. -/
theorem streamOf_appendCode {s : State} {e : CodeEntry} (h : s.be32.toNat + e.clen.toNat < 2 ^ 32) :
    streamOf (s.appendCode e) = streamOf s ++ entryBits e := by
  rw [streamOf, State.be32_appendCode, BitVec.toNat_ofNat, Nat.mod_eq_of_lt h, List.range_add, List.map_append,
    List.map_map]
  congr 1
  · refine List.map_congr_left fun i hi => ?_
    rw [State.getbit_appendCode, if_neg (by have := List.mem_range.1 hi; omega)]
  · refine List.map_congr_left fun j hj => ?_
    have := List.mem_range.1 hj
    rw [Function.comp_apply, State.getbit_appendCode, if_pos (by omega), Nat.add_sub_cancel_left]

/-! ### The command -/

theorem exec_encChar_dropped {s : State} {c : Nat} (h : 128 ≤ c) : exec (.encChar c) s = .next (s.done s.be32) := by
  change execEncChar c s = _
  rw [execEncChar, charSym_outOfRange h]

section
variable {s : State} {c : Nat} {y : Sym}

theorem exec_encChar_noCodes (hy : charSym c = some y) (hv : s.codesValid = false) :
    exec (.encChar c) s = .next (s.raise .noCodes 0#32) := by
  change execEncChar c s = _
  rw [execEncChar, hy]
  exact congrArg _ (if_pos hv)

/-- With codes valid, an in-range character is encoded with its entry of CODE (44 R185). -/
theorem exec_encChar_symbol (hy : charSym c = some y) (hv : s.codesValid = true) :
    exec (.encChar c) s = .next (
      if (s.codeAt y).clen = 0#7 then s.raise .noCode 0#32
      else if fitsCart s.params (s.be32.toNat + (s.codeAt y).clen.toNat) then
        (s.appendCode (s.codeAt y)).done (BitVec.ofNat 32 (s.be32.toNat + (s.codeAt y).clen.toNat))
      else s.raise .capacity 0#32) := by
  change execEncChar c s = _
  rw [execEncChar, hy]
  exact congrArg _ (if_neg (by simp [hv]))

theorem exec_encChar_noCode (hy : charSym c = some y) (hv : s.codesValid = true) (h0 : (s.codeAt y).clen = 0#7) :
    exec (.encChar c) s = .next (s.raise .noCode 0#32) := by
  rw [exec_encChar_symbol hy hv, if_pos h0]

theorem exec_encChar_tooLong (hy : charSym c = some y) (hv : s.codesValid = true) (h0 : (s.codeAt y).clen ≠ 0#7)
    (hf : ¬ fitsCart s.params (s.be32.toNat + (s.codeAt y).clen.toNat) = true) :
    exec (.encChar c) s = .next (s.raise .capacity 0#32) := by
  rw [exec_encChar_symbol hy hv, if_neg h0, if_neg hf]

theorem exec_encChar_appends (hy : charSym c = some y) (hv : s.codesValid = true) (h0 : (s.codeAt y).clen ≠ 0#7)
    (hf : fitsCart s.params (s.be32.toNat + (s.codeAt y).clen.toNat) = true) :
    exec (.encChar c) s = .next (
      (s.appendCode (s.codeAt y)).done (BitVec.ofNat 32 (s.be32.toNat + (s.codeAt y).clen.toNat))) := by
  rw [exec_encChar_symbol hy hv, if_neg h0, if_pos hf]

end

/-- Settles O37: each check that stops the command has its own equation, and each completion leaves the rest alone. -/
theorem encCharWithoutAppend : Obligations.EncCharWithoutAppend := by
  refine fun c s => ⟨fun hc => ?_, fun hc hv => ?_, fun hc hv h0 => ?_, fun hc hv h0 hf => ?_⟩
  · exact ⟨_, exec_encChar_dropped hc, completed_done _ rfl rfl, keeps_done _ (keeps_refl _ s)⟩
  · exact ⟨_, exec_encChar_noCodes (charSym_inRange hc) hv, fails_alone ..⟩
  · exact ⟨_, exec_encChar_noCode (charSym_inRange hc) hv h0, fails_alone ..⟩
  · have hfit : ¬ fitsCart s.params _ = true := fun h => hf.not_ge (of_decide_eq_true h)
    exact ⟨_, exec_encChar_tooLong (charSym_inRange hc) hv h0 hfit, fails_alone ..⟩

/-- Settles O38: what fits in CART also fits in the header's word and in CART_LEN, so the new bit count reads back and the
rest is what the append reads. -/
theorem encCharAppends : Obligations.EncCharAppends := by
  rintro c s ⟨⟨-, -, h64k⟩, -⟩ hc hv h0 hf
  have he := exec_encChar_appends (charSym_inRange hc) hv h0 (decide_eq_true hf)
  generalize s.codeAt (BitVec.ofNat 7 c) = e at *
  have hlt : s.be32.toNat + e.clen.toNat < 2 ^ 32 := by rw [ceil8] at hf; omega
  have hn : (s.appendCode e).be32.toNat = s.be32.toNat + e.clen.toNat := by
    rw [State.be32_appendCode, BitVec.toNat_ofNat, Nat.mod_eq_of_lt hlt]
  refine ⟨_, he, streamOf_appendCode hlt, hn, ?_, fun i hi => ?_, fun a h4 ha => ?_, ?_, exec_frame he⟩
  · rw [State.be32_done, hn]
    exact (BitVec.toNat_ofNat ..).trans (Nat.mod_eq_of_lt (by omega))
  · rw [State.be32_done, hn] at hi
    rw [State.getbit_done, State.getbit_appendCode, if_neg (by omega)]
  · rw [State.be32_done, hn] at ha
    rw [State.memRead_done, State.memRead_appendCode s e h4 ha]
  · obtain ⟨x, k, hx⟩ := s.appendCode_eq e
    rw [State.be32_done, State.be32_appendCode]
    exact completed_done _ (by rw [hx]) (by rw [hx])

/-! ### Encoding a text -/

/-- The codes of a text's in-range characters, in text order (44 R186). -/
def textBits (s : State) (text : List Nat) : List Bool := (inRange text).flatMap fun y => entryBits (s.codeAt y)

theorem inRange_cons (c : Nat) (text : List Nat) : inRange (c :: text) = inRange [c] ++ inRange text :=
  List.filterMap_append (l := [c])

@[simp] theorem textBits_nil (s : State) : textBits s [] = [] := rfl

theorem textBits_cons (s : State) (c : Nat) (text : List Nat) :
    textBits s (c :: text) = textBits s [c] ++ textBits s text := by
  rw [textBits, inRange_cons, List.flatMap_append, textBits, textBits]

theorem length_textBits (s : State) (text : List Nat) :
    (textBits s text).length = ((inRange text).map fun y => (s.codeAt y).clen.toNat).sum := by
  simp [textBits, List.length_flatMap]

/-- CART declares the stream `bits`, CART_LEN is its length in bytes, and the payload after it is 0 (44 R186). -/
structure HoldsBits (bits : List Bool) (s : State) : Prop where
  stream : streamOf s = bits
  cartLen : s.cartLen.toNat = 4 + ceil8 s.be32.toNat
  clear : ∀ i, s.be32.toNat ≤ i → i < 8 * (s.params.cartBytes - 4) → s.getbit i = false

theorem HoldsBits.length {bits : List Bool} {s : State} (h : HoldsBits bits s) : bits.length = s.be32.toNat := by
  rw [← h.stream, length_streamOf]

/-- The parameters are legal, the codes are valid, and each symbol of the text has one (44 R186). -/
def HasCodes (s : State) (text : List Nat) : Prop :=
  s.params.Legal ∧ s.codesValid = true ∧ ∀ y ∈ inRange text, (s.codeAt y).clen ≠ 0#7

/-- What ENC_BEGIN and ENC_CHAR write (40 R143, 44 R185) leaves the parameters and the codes. -/
theorem keeps_codes {s t : State} (h : KeepsAllBut [.bytes .cart, .cartLen] s t) :
    t.params = s.params ∧ t.codesValid = s.codesValid ∧ t.codeAt = s.codeAt := by
  have hcode : t.code = s.code := h .codes (by decide)
  obtain ⟨hparams, -⟩ := h .env (by decide)
  exact ⟨hparams, h .codesValid (by decide), by funext y; simp only [State.codeAt, hcode]⟩

theorem textBits_keeps {s t : State} (h : KeepsAllBut [.bytes .cart, .cartLen] s t) (text : List Nat) :
    textBits t text = textBits s text := by
  obtain ⟨-, -, hcode⟩ := keeps_codes h
  rw [textBits, hcode, textBits]

theorem HasCodes.keeps {s t : State} {text : List Nat} (hs : HasCodes s text)
    (h : KeepsAllBut [.bytes .cart, .cartLen] s t) : HasCodes t text := by
  obtain ⟨hparams, hvalid, hcode⟩ := keeps_codes h
  rwa [HasCodes, hparams, hvalid, hcode]

theorem hasCodes_cons {s : State} {c : Nat} {text : List Nat} :
    HasCodes s (c :: text) ↔ HasCodes s [c] ∧ HasCodes s text := by
  simp only [HasCodes, inRange_cons c text, List.mem_append, or_imp, forall_and]
  tauto

/-- ENC_BEGIN leaves the empty stream (30 R123, 40 R143). -/
theorem exec_encBegin {s : State} (hl : s.params.Legal) :
    ∃ t, exec encBegin s = .next t ∧ HoldsBits [] t ∧ KeepsAllBut [.bytes .cart, .cartLen] s t := by
  obtain ⟨t, he, hn, hlen, hzero, -, -, hk⟩ := (bbCreateZeroes 0 s hl).1 (Nat.zero_le _)
  obtain ⟨hparams, -⟩ := keeps_codes hk
  refine ⟨t, he, ⟨by rw [streamOf, hn]; rfl, by rw [hlen, hn], fun i _ hi => ?_⟩, hk⟩
  rw [hparams] at hi
  have hbyte : t.memRead .cart (bitAddr i) = 0#8 := hzero _ (by rw [bitAddr]; omega) (by rw [bitAddr]; omega)
  rw [State.getbit, hbyte, BitVec.getLsbD_zero]

/-- ENC_CHAR of one more character adds its code, if it is in range (44 R185). -/
theorem HoldsBits.encChar {bits : List Bool} {s : State} {c : Nat} (h : HoldsBits bits s) (hs : HasCodes s [c])
    (hfit : (bits ++ textBits s [c]).length ≤ 8 * (s.params.cartBytes - 4)) :
    ∃ t, exec (.encChar c) s = .next t ∧ HoldsBits (bits ++ textBits s [c]) t ∧
      KeepsAllBut [.bytes .cart, .cartLen] s t := by
  obtain ⟨hl, hv, hcoded⟩ := hs
  rcases lt_or_ge c 128 with hc | hc
  · have hin : inRange [c] = [BitVec.ofNat 7 c] := inRange_cons_counted hc []
    have hbits : textBits s [c] = entryBits (s.codeAt (BitVec.ofNat 7 c)) := by
      rw [textBits, hin, List.flatMap_singleton]
    rw [hbits, List.length_append, h.length, length_entryBits] at hfit
    have h4 : 4 ≤ s.params.cartBytes := Nat.le_trans (by decide) hl.1.2.1
    obtain ⟨t, he, hstream, hn, hlen, hafter, -, -, hk⟩ := encCharAppends c s hl hc hv
      (hcoded _ (hin ▸ List.mem_singleton_self _)) (of_decide_eq_true ((fitsCart_iff h4).2 hfit))
    obtain ⟨hparams, -⟩ := keeps_codes hk
    refine ⟨t, he, ⟨by rw [hstream, h.stream, hbits], hlen, fun i hi hlt => ?_⟩, hk⟩
    rw [hafter i hi]
    exact h.clear i (by omega) (hparams ▸ hlt)
  · have hbits : textBits s [c] = [] := by rw [textBits, inRange_cons_dropped hc]; rfl
    rw [hbits, List.append_nil]
    exact ⟨_, exec_encChar_dropped hc, ⟨h.stream, h.cartLen, h.clear⟩, keeps_done _ (keeps_refl _ s)⟩

/-- ENC_CHAR over the rest of a text adds its codes (44 R186). -/
theorem HoldsBits.execAll_encChar (text : List Nat) {bits : List Bool} {s : State} (h : HoldsBits bits s)
    (hs : HasCodes s text) (hfit : (bits ++ textBits s text).length ≤ 8 * (s.params.cartBytes - 4)) :
    ∃ t, execAll (text.map .encChar) s = .next t ∧ HoldsBits (bits ++ textBits s text) t ∧
      KeepsAllBut [.bytes .cart, .cartLen] s t := by
  induction text generalizing bits s with
  | nil => exact ⟨s, rfl, by rwa [textBits_nil, List.append_nil], keeps_refl _ s⟩
  | cons c text ih =>
    obtain ⟨hchar, hrest⟩ := hasCodes_cons.1 hs
    rw [textBits_cons, ← List.append_assoc] at hfit ⊢
    obtain ⟨u, hu, hbits, hk⟩ := h.encChar hchar (by rw [List.length_append] at hfit; omega)
    rw [← textBits_keeps hk text, ← (keeps_codes hk).1] at hfit
    obtain ⟨t, ht, htext, hk'⟩ := ih hbits (hrest.keeps hk) hfit
    exact ⟨t, by rw [List.map_cons, execAll, hu]; exact ht, textBits_keeps hk text ▸ htext, keeps_trans hk hk'⟩

/-- Settles O39: ENC_BEGIN leaves the empty stream, and each ENC_CHAR adds the code of one more character. -/
theorem encodeTextConcatenates : Obligations.EncodeTextConcatenates := by
  intro text s hl hv hcoded (hfit : (textBits s text).length ≤ _)
  obtain ⟨u, hu, hempty, hk⟩ := exec_encBegin hl
  have hs : HasCodes s text := ⟨hl, hv, hcoded⟩
  rw [← textBits_keeps hk text, ← (keeps_codes hk).1] at hfit
  obtain ⟨t, ht, htext, hk'⟩ := hempty.execAll_encChar text (hs.keeps hk) hfit
  rw [List.nil_append, textBits_keeps hk] at htext
  have hkeeps := keeps_trans hk hk'
  refine ⟨t, by rw [execAll, hu]; exact ht, htext.stream, ?_, htext.cartLen, fun i hi hlt => ?_, hkeeps⟩
  · rw [← htext.length, length_textBits]
  · exact htext.clear i hi (by rwa [(keeps_codes hkeeps).1])

/-! ### A lone leaf -/

theorem inRange_replicate (n : Nat) (y : Sym) : inRange (List.replicate n y.toNat) = List.replicate n y := by
  have hy : charSym y.toNat = some y := by rw [charSym_inRange y.isLt, BitVec.ofNat_toNat, BitVec.setWidth_eq]
  rw [inRange, List.filterMap_replicate_of_some hy]

/-- The code of a lone leaf is the one bit 1 (43 R176). -/
theorem entryBits_of_leaf {s : State} {y : Sym} (hc : CodeInv s) (hv : s.codesValid = true)
    (ht : s.tree? = some (.leaf y)) : entryBits (s.codeAt y) = [true] := by
  obtain ⟨-, t, htree, hcode⟩ := hc.valid hv
  obtain rfl := Option.some.inj (ht.symm.trans htree)
  exact entryBits_codeAt (e := (y, [true])) hcode (List.nodup_singleton y) (List.mem_singleton_self _)

theorem textBits_replicate {s : State} {y : Sym} (n : Nat) (h : entryBits (s.codeAt y) = [true]) :
    textBits s (List.replicate n y.toNat) = List.replicate n true := by
  rw [textBits, inRange_replicate, List.flatMap_replicate, h, List.flatten_replicate_singleton]

/-- Settles O40: the text's codes are `n` one-bit codes 1. -/
theorem singleSymbolEncodesToOnes : Obligations.SingleSymbolEncodesToOnes := by
  intro n y s hl hc hv ht hn
  have hone := entryBits_of_leaf hc hv ht
  have hbits := textBits_replicate n hone
  have hcoded : ∀ z ∈ inRange (List.replicate n y.toNat), (s.codeAt z).clen ≠ 0#7 := fun z hz h0 => by
    rw [inRange_replicate] at hz
    obtain rfl := List.eq_of_mem_replicate hz
    have hlen := congrArg List.length hone
    rw [length_entryBits, h0] at hlen
    exact absurd hlen (by decide)
  obtain ⟨t, he, hstream, -, hlen, -, -⟩ := encodeTextConcatenates (List.replicate n y.toNat) s hl hv hcoded
    (by change (textBits s _).length ≤ _; rwa [hbits, List.length_replicate])
  replace hstream : streamOf t = List.replicate n true := hstream.trans hbits
  have hcount : t.be32.toNat = n := by rw [← length_streamOf, hstream, List.length_replicate]
  exact ⟨t, he, hstream, hcount, hcount ▸ hlen⟩

end Sys2Proof.Safety
end

section
/-! DECODE (45 R195 to R199): its checks, its walk as a walk over the tree that NODE holds, and what the walk leaves in
OUT. -/
namespace Sys2Proof.Safety
open Sys2Proof.Machine

/-! ### The checks before the walk -/

theorem keeps_outLen (s : State) (n : BitVec 17) : KeepsAllBut [.outLen] s { s with outLen := n } := by
  intro p hp
  cases p with
  | outLen => exact absurd (List.mem_singleton_self _) hp
  | bytes m => exact State.memRead_congr (by cases m <;> rfl) rfl
  | _ => simp [Piece.same]

/-- DECODE's failure without a walk clears OUT_LEN and does nothing else (45 R195). -/
theorem failDecode_alone (s : State) (e : ErrCode) (d : Word) :
    (s.failDecode e d).outLen = 0#17 ∧ Failed s (s.failDecode e d) e d ∧ KeepsAllBut [.outLen] s (s.failDecode e d) :=
  ⟨rfl, failed_raise e d rfl rfl rfl, keeps_raise e d (keeps_outLen s 0#17)⟩

section
variable {s : State}

theorem exec_decode_noTree (hv : s.treeValid = false) : exec .decode s = .next (s.failDecode .noTree 0#32) :=
  congrArg _ (if_pos hv)

/-- With a tree, what DECODE does depends on how much of the artifact is present (45 R195). -/
theorem exec_decode_tree (hv : s.treeValid = true) : exec .decode s = .next (
    if s.cartUsed < 4 then s.failDecode .corruptFormat 6#32
    else if s.cartUsed < 4 + ceil8 s.be32.toNat then s.failDecode .corruptFormat 7#32
    else s.finishDecode (decodeLoop s s.be32.toNat 0 s.root 0 s.out)) :=
  congrArg _ (if_neg (by simp [hv]))

/-- With a tree and a whole artifact, DECODE walks (45 R195). -/
theorem exec_decode_walks (hv : s.treeValid = true) (hc : 4 + ceil8 s.be32.toNat ≤ s.cartUsed) :
    exec .decode s = .next (s.finishDecode (decodeLoop s s.be32.toNat 0 s.root 0 s.out)) := by
  rw [exec_decode_tree hv, if_neg (by omega), if_neg (by omega)]

end

/-- Settles O41: each check that stops DECODE fails it with its own code and detail, and each failure only clears
OUT_LEN. -/
theorem decodeRejects : Obligations.DecodeRejects := by
  refine fun s => ⟨fun hv => ⟨_, exec_decode_noTree hv, failDecode_alone ..⟩, fun hv hlen => ?_, fun hv h4 hlen => ?_⟩
  · exact ⟨_, (exec_decode_tree hv).trans (congrArg _ (if_pos hlen)), failDecode_alone ..⟩
  · refine ⟨_, (exec_decode_tree hv).trans (congrArg _ ?_), failDecode_alone ..⟩
    exact (if_neg (Nat.not_lt.2 h4)).trans (if_pos hlen)

/-! ### What the walk leaves in OUT -/

/-- OUT after a walk that wrote the bytes `bs`, whether it ended or failed (45 R195). -/
theorem memRead_finishDecode (s : State) (bs : List Byte) (r : Except ErrCode Nat) (a : Nat) :
    (s.finishDecode (s.out.pokes 0 bs, r)).memRead .out a =
      if a < bs.length then bs.getD a 0#8 else s.memRead .out a := by
  have h : (s.memWrites .out 0 bs).memRead .out a = if a < bs.length then bs.getD a 0#8 else s.memRead .out a := by
    simp [State.memRead_memWrites]
  cases r <;> exact h

/-- A run of a memory is known from its bytes. -/
theorem bytesFrom_eq {s : State} {m : ByteMem} {a : Nat} {bs : List Byte}
    (h : ∀ k (hk : k < bs.length), s.memRead m (a + k) = bs[k]) : bytesFrom s m a bs.length = bs :=
  List.ext_getElem (by simp [bytesFrom]) fun k _ hk => by simp [bytesFrom, h k hk]

theorem bytesFrom_finishDecode (s : State) (bs : List Byte) (r : Except ErrCode Nat) :
    bytesFrom (s.finishDecode (s.out.pokes 0 bs, r)) .out 0 bs.length = bs :=
  bytesFrom_eq fun k hk => by simp [memRead_finishDecode, hk]

/-- A walk that meets no error completes with the number of its symbols (45 R195). -/
theorem completed_finishDecode (s : State) (out : Memory) (k : Nat) :
    Completed s (s.finishDecode (out, .ok k)) (BitVec.ofNat 32 k) :=
  completed_done _ rfl rfl

/-- OUT_LEN holds every number of symbols that fit in OUT (10 R48). -/
theorem toNat_outLen_finishDecode {s : State} (hl : s.params.Legal) (out : Memory) {k : Nat}
    (hk : k ≤ s.params.outBytes) : (s.finishDecode (out, .ok k)).outLen.toNat = k := by
  obtain ⟨-, -, -, h64k⟩ := hl
  exact (BitVec.toNat_ofNat ..).trans (Nat.mod_eq_of_lt (by omega))

/-- A walk that meets an error fails with it, without a detail (45 R195). -/
theorem failed_finishDecode (s : State) (out : Memory) (e : ErrCode) :
    Failed s (s.finishDecode (out, .error e)) e 0#32 :=
  failed_raise e 0#32 rfl rfl rfl

/-! ### The tree below a slot -/

/-- The walk from slot `i` reads the tree `t`. -/
def Reads (nodes : Vector Node 256) (i : Slot) (t : Tree) : Prop := ∃ fuel, readTree nodes fuel i = some t

theorem reads_root {s : State} {t : Tree} (h : s.tree? = some t) : Reads s.nodes s.root t :=
  ⟨128, (readTree_of_tree? h).1⟩

/-- What stands in a slot that reads as a tree: a leaf with its symbol, or an internal slot above its two subtrees. -/
theorem Reads.slot {nodes : Vector Node 256} {i : Slot} {t : Tree} (h : Reads nodes i t) :
    ((nodeAt nodes i).leaf = true ∧ t = .leaf (nodeAt nodes i).sym) ∨
    ∃ l r, (nodeAt nodes i).leaf = false ∧ t = .node l r ∧ Reads nodes (nodeAt nodes i).left l ∧
      Reads nodes (nodeAt nodes i).right r := by
  obtain ⟨_ | fuel, h⟩ := h
  · cases h
  · cases hl : (nodeAt nodes i).leaf with
    | true =>
      rw [readTree, if_pos hl] at h
      exact .inl ⟨rfl, (Option.some.inj h).symm⟩
    | false =>
      obtain ⟨l, r, e1, e2, rfl⟩ := readTree_node h hl
      exact .inr ⟨l, r, rfl, rfl, ⟨fuel, e1⟩, ⟨fuel, e2⟩⟩

theorem Reads.leaf {nodes : Vector Node 256} {i : Slot} {y : Sym} (h : Reads nodes i (.leaf y)) :
    (nodeAt nodes i).leaf = true ∧ (nodeAt nodes i).sym = y := by
  rcases h.slot with ⟨hl, ht⟩ | ⟨_, _, _, ht, _⟩ <;> cases ht
  exact ⟨hl, rfl⟩

/-- A bit takes the edge to the left or to the right subtree. -/
theorem Reads.node {nodes : Vector Node 256} {i : Slot} {l r : Tree} (h : Reads nodes i (.node l r)) :
    (nodeAt nodes i).leaf = false ∧
      ∀ b : Bool, Reads nodes (if b then (nodeAt nodes i).right else (nodeAt nodes i).left) (if b then r else l) := by
  rcases h.slot with ⟨_, ht⟩ | ⟨_, _, hl, ht, hleft, hright⟩ <;> cases ht
  exact ⟨hl, fun b => by cases b <;> assumption⟩

/-! ### Two or more leaves -/

/-- Emitting `ys` one after another into OUT, with `k` symbols there already (45 R195): what fits is written, and the
first symbol that does not fit is CAPACITY. -/
def emitAll (p : Params) (ys : List Sym) (k : Nat) (out : Memory) : Memory × Except ErrCode Nat :=
  (out.pokes k ((ys.take (p.outBytes - k)).map fun y => y.setWidth 8),
    if k + ys.length ≤ p.outBytes then .ok (k + ys.length) else .error .capacity)

theorem emitAll_nil {p : Params} {k : Nat} {out : Memory} (hk : k ≤ p.outBytes) :
    emitAll p [] k out = (out, .ok k) := by
  simp [emitAll, Memory.pokes, hk]

/-- With OUT full the first symbol is CAPACITY. -/
theorem emitAll_full {p : Params} {y : Sym} {ys : List Sym} {out : Memory} :
    emitAll p (y :: ys) p.outBytes out = (out, .error .capacity) := by
  simp [emitAll, Memory.pokes]

/-- With room in OUT the first symbol is written, and the others follow it. -/
theorem emitAll_cons {p : Params} {y : Sym} {ys : List Sym} {k : Nat} {out : Memory} (hk : k < p.outBytes) :
    emitAll p (y :: ys) k out = emitAll p ys (k + 1) (out.poke k (y.setWidth 8)) := by
  obtain ⟨n, hn⟩ : ∃ n, p.outBytes - k = n + 1 := ⟨p.outBytes - (k + 1), by omega⟩
  have hn' : p.outBytes - (k + 1) = n := by omega
  simp only [emitAll, hn, hn', List.take_succ_cons, List.map_cons, Memory.pokes, List.length_cons]
  rw [Nat.add_right_comm k 1, Nat.add_assoc]

/-- Where all symbols fit, OUT gets them all. -/
theorem emitAll_fits {p : Params} {ys : List Sym} (out : Memory) (h : ys.length ≤ p.outBytes) :
    emitAll p ys 0 out = (out.pokes 0 (ys.map fun y => y.setWidth 8), .ok ys.length) := by
  simp [emitAll, h, List.take_of_length_le h]

/-- Where they do not, OUT is filled and CAPACITY met. -/
theorem emitAll_overflows {p : Params} {ys : List Sym} (out : Memory) (h : p.outBytes < ys.length) :
    emitAll p ys 0 out = (out.pokes 0 ((ys.take p.outBytes).map fun y => y.setWidth 8), .error .capacity) := by
  simp [emitAll, h]

/-- DECODE's walk emits the symbols that the complete codes of the remaining bits name (45 R195, R196). -/
theorem decodeLoop_eq_emitAll {s : State} {l r : Tree} (hroot : Reads s.nodes s.root (.node l r)) (left : Nat)
    {i k : Nat} {pos : Slot} {l' r' : Tree} {out : Memory} (hpos : Reads s.nodes pos (.node l' r'))
    (hk : k ≤ s.params.outBytes) :
    decodeLoop s left i pos k out =
      emitAll s.params (decodeBits (.node l r) (.node l' r') ((List.range' i left).map s.getbit)) k out := by
  induction left generalizing i k pos l' r' out with
  | zero => exact (emitAll_nil hk).symm
  | succ left ih =>
    have hbits : (List.range' i (left + 1)).map s.getbit =
        s.getbit i :: (List.range' (i + 1) left).map s.getbit := rfl
    have hnext := hpos.node.2 (s.getbit i)
    rw [decodeLoop, if_neg (by simp [hroot.node.1]), hbits, decodeBits]
    revert hnext
    generalize (if s.getbit i then (nodeAt s.nodes pos).right else (nodeAt s.nodes pos).left) = next
    generalize (if s.getbit i then r' else l') = sub
    intro hnext
    cases sub with
    | leaf y =>
      obtain ⟨hleaf, hsym⟩ := hnext.leaf
      simp only [hleaf, if_true, hsym, emitSym]
      by_cases hfull : k = s.params.outBytes
      · rw [if_pos hfull, hfull, emitAll_full]
      · rw [if_neg hfull, emitAll_cons (by omega)]
        exact ih hroot (by omega)
    | node l₂ r₂ =>
      simp only [hnext.node.1]
      exact ih hnext hk

/-- With a tree of two or more leaves and a whole artifact, DECODE emits the symbols of the declared stream (45
R195). -/
theorem exec_decode_node {s : State} {l r : Tree} (hv : s.treeValid = true) (ht : s.tree? = some (.node l r))
    (hc : 4 + ceil8 s.be32.toNat ≤ s.cartUsed) : exec .decode s =
      .next (s.finishDecode (emitAll s.params (decodeBits (.node l r) (.node l r) (streamOf s)) 0 s.out)) := by
  rw [exec_decode_walks hv hc, decodeLoop_eq_emitAll (reads_root ht) _ (reads_root ht) (Nat.zero_le _), streamOf,
    List.range_eq_range']

/-- Settles O42: the walk emits the symbols of the stream, and they all fit in OUT or the first that does not is
CAPACITY. -/
theorem decodeWalksTree : Obligations.DecodeWalksTree := by
  intro s l r hl hv ht hc
  have he := exec_decode_node hv ht hc
  generalize decodeBits (.node l r) (.node l r) (streamOf s) = ys at *
  refine ⟨fun hfit => ?_, fun hmany => ?_⟩
  · rw [emitAll_fits _ hfit] at he
    have hbytes := bytesFrom_finishDecode s (ys.map fun y => y.setWidth 8) (.ok ys.length)
    rw [List.length_map] at hbytes
    refine ⟨_, _, he, rfl, hbytes, fun a ha => ?_, toNat_outLen_finishDecode hl _ hfit, completed_finishDecode ..,
      exec_frame he⟩
    rw [memRead_finishDecode, List.length_map, if_neg (Nat.not_lt.2 ha)]
  · rw [emitAll_overflows _ hmany] at he
    have hlen : (ys.take s.params.outBytes).length = s.params.outBytes := List.length_take_of_le hmany.le
    have hbytes := bytesFrom_finishDecode s ((ys.take s.params.outBytes).map fun y => y.setWidth 8) (.error .capacity)
    rw [List.length_map, hlen] at hbytes
    refine ⟨_, he, hbytes, fun a ha => ?_, rfl, failed_finishDecode .., exec_frame he⟩
    rw [memRead_finishDecode, List.length_map, hlen, if_neg (Nat.not_lt.2 ha)]

/-! ### A lone leaf -/

section
variable {s : State} {y : Sym}

/-- A 1-bit with room in OUT emits the lone leaf's symbol (45 R197). -/
theorem decodeLoop_leaf_emit (hroot : Reads s.nodes s.root (.leaf y)) (left : Nat) {i k : Nat} {pos : Slot}
    {out : Memory} (hbit : s.getbit i = true) (hk : k < s.params.outBytes) :
    decodeLoop s (left + 1) i pos k out = decodeLoop s left (i + 1) pos (k + 1) (out.poke k (y.setWidth 8)) := by
  obtain ⟨hleaf, rfl⟩ := hroot.leaf
  rw [decodeLoop, if_pos hleaf, if_pos hbit, emitSym, if_neg (by omega)]

/-- A run of 1-bits that fits in OUT (45 R197). -/
theorem decodeLoop_leaf_run (hroot : Reads s.nodes s.root (.leaf y)) (n left : Nat) {i k : Nat} {pos : Slot}
    {out : Memory} (hbits : ∀ j, i ≤ j → j < i + n → s.getbit j = true) (hk : k + n ≤ s.params.outBytes) :
    decodeLoop s (left + n) i pos k out =
      decodeLoop s left (i + n) pos (k + n) (out.pokes k (List.replicate n (y.setWidth 8))) := by
  induction n generalizing i k out with
  | zero => rfl
  | succ n ih =>
    rw [← Nat.add_assoc, decodeLoop_leaf_emit hroot _ (hbits i (by omega) (by omega)) (by omega),
      ih (fun j h1 h2 => hbits j (by omega) (by omega)) (by omega), List.replicate_succ, Memory.pokes,
      Nat.add_right_comm i, Nat.add_right_comm k, Nat.add_assoc i, Nat.add_assoc k]

/-- A 0-bit has no edge (45 R197). -/
theorem decodeLoop_leaf_zero (hroot : Reads s.nodes s.root (.leaf y)) (left : Nat) {i k : Nat} {pos : Slot}
    {out : Memory} (hbit : s.getbit i = false) :
    decodeLoop s (left + 1) i pos k out = (out, .error .badPath) := by
  rw [decodeLoop, if_pos hroot.leaf.1, if_neg (by simp [hbit])]

/-- A 1-bit with OUT full is CAPACITY (45 R198). -/
theorem decodeLoop_leaf_full (hroot : Reads s.nodes s.root (.leaf y)) (left : Nat) {i : Nat} {pos : Slot}
    {out : Memory} (hbit : s.getbit i = true) :
    decodeLoop s (left + 1) i pos s.params.outBytes out = (out, .error .capacity) := by
  rw [decodeLoop, if_pos hroot.leaf.1, if_pos hbit, emitSym, if_pos rfl]

/-- With a lone leaf and a whole artifact, DECODE emits the symbol for the 1-bits at the head of the stream, and then
meets the rest of it (45 R197). -/
theorem exec_decode_leaf (hv : s.treeValid = true) (ht : s.tree? = some (.leaf y))
    (hc : 4 + ceil8 s.be32.toNat ≤ s.cartUsed) {n left : Nat} (hn : s.be32.toNat = left + n)
    (hbits : ∀ j, j < n → s.getbit j = true) (hfit : n ≤ s.params.outBytes) : exec .decode s =
      .next (s.finishDecode (decodeLoop s left n s.root n (s.out.pokes 0 (List.replicate n (y.setWidth 8))))) := by
  rw [exec_decode_walks hv hc, hn,
    decodeLoop_leaf_run (reads_root ht) n left (fun j _ h => hbits j (by omega)) (by omega), Nat.zero_add]

theorem memRead_finishDecode_replicate (s : State) (n : Nat) (v : Byte) (r : Except ErrCode Nat) (a : Nat) :
    (s.finishDecode (s.out.pokes 0 (List.replicate n v), r)).memRead .out a =
      if a < n then v else s.memRead .out a := by
  rw [memRead_finishDecode, List.length_replicate]
  split
  · rename_i h; simp [h]
  · rfl

end

/-- Settles O43: the walk emits the symbol for the leading 1-bits that fit, and what ends it is the stream's end, a
0-bit or a full OUT. -/
theorem decodeLoneLeaf : Obligations.DecodeLoneLeaf := by
  intro s y hl hv ht hc
  have hroot := reads_root ht
  refine ⟨fun hfit hbits => ?_, fun j hj hfit hbit hbits => ?_, fun hmany hbits => ?_⟩
  · have he := exec_decode_leaf hv ht hc (Nat.zero_add _).symm hbits hfit
    have hdone := completed_finishDecode s (s.out.pokes 0 (List.replicate s.be32.toNat (y.setWidth 8))) s.be32.toNat
    rw [BitVec.ofNat_toNat, BitVec.setWidth_eq] at hdone
    exact ⟨_, he, memRead_finishDecode_replicate s _ _ _, toNat_outLen_finishDecode hl _ hfit, hdone, exec_frame he⟩
  · obtain ⟨left, hn⟩ : ∃ left, s.be32.toNat = left + 1 + j := ⟨s.be32.toNat - j - 1, by omega⟩
    have he := exec_decode_leaf hv ht hc hn hbits hfit
    rw [decodeLoop_leaf_zero hroot left hbit] at he
    exact ⟨_, he, memRead_finishDecode_replicate s _ _ _, rfl, failed_finishDecode .., exec_frame he⟩
  · obtain ⟨left, hn⟩ : ∃ left, s.be32.toNat = left + 1 + s.params.outBytes :=
      ⟨s.be32.toNat - s.params.outBytes - 1, by omega⟩
    have he := exec_decode_leaf hv ht hc hn (fun i hi => hbits i hi.le) le_rfl
    rw [decodeLoop_leaf_full hroot left (hbits _ le_rfl)] at he
    exact ⟨_, he, memRead_finishDecode_replicate s _ _ _, rfl, failed_finishDecode .., exec_frame he⟩

end Sys2Proof.Safety
end

section
/-! DESER reads back what SER wrote (46 R211, R213, R218). -/
namespace Sys2Proof.Safety
open Sys2Proof.Machine

/-! ### The parse of a serialized tree -/

section
variable {rd : Nat → Byte} {len fuel : Nat} {q : ParseState}

/-- A leaf marker with a new symbol after it (46 R213). -/
theorem parse_leaf {y : Sym} (hp : q.p + 1 < len) (hm : rd q.p = 0x01#8) (hb : rd (q.p + 1) = y.setWidth 8)
    (hc : q.cnt ≠ 255) (hy : y ∉ q.seen) :
    parse rd len (fuel + 1) q = .ok (BitVec.ofNat 8 q.cnt,
      { p := q.p + 2, cnt := q.cnt + 1, seen := y :: q.seen,
        nodes := setNode q.nodes (BitVec.ofNat 8 q.cnt) (Node.mkLeaf y 0#32) }) := by
  have hlt : ¬ 128 ≤ (y.setWidth 8 : Byte).toNat := by
    have := y.isLt
    simp only [BitVec.toNat_setWidth]
    omega
  have hsym : (y.setWidth 8 : Byte).setWidth 7 = y := by simp
  rw [parse, if_neg (by omega), if_neg (by simp [hm]), if_neg hc]
  simp only [hm, if_true, parseLeaf, hb, hsym]
  rw [if_neg (by omega), if_neg hlt, if_neg hy]

/-- An internal marker with two subtrees after it (46 R213). -/
theorem parse_node {l r : Slot} {q2 q3 : ParseState} (hp : q.p < len) (hm : rd q.p = 0x00#8) (hc : q.cnt ≠ 255)
    (hl : parse rd len fuel { q with p := q.p + 1, cnt := q.cnt + 1 } = .ok (l, q2))
    (hr : parse rd len fuel q2 = .ok (r, q3)) :
    parse rd len (fuel + 1) q = .ok (BitVec.ofNat 8 q.cnt,
      { q3 with nodes := setNode q3.nodes (BitVec.ofNat 8 q.cnt) (Node.mkInternal 0#32 l r) }) := by
  rw [parse, if_neg (by omega), if_neg (by simp [hm]), if_neg hc]
  simp [hm, hl, hr]

end

/-- The parse stands before the artifact of `t`, within the bytes it may read and with enough free slots, and has
seen none of its symbols. -/
structure StandsBefore (rd : Nat → Byte) (len : Nat) (t : Tree) (q : ParseState) : Prop where
  bytes : (List.range' q.p t.serialize.length).map rd = t.serialize
  room : q.p + t.serialize.length ≤ len
  slots : q.cnt + t.size ≤ 255
  fresh : (t.symbols ++ q.seen).Nodup

/-- The parse has read `t`: it stands after the artifact, has taken the next slots for the tree and seen its symbols. -/
structure HasRead (q : ParseState) (t : Tree) (q' : ParseState) : Prop where
  pos : q'.p = q.p + t.serialize.length
  cnt : q'.cnt = q.cnt + t.size
  seen : q'.seen.Perm (t.symbols ++ q.seen)
  hangs : Hangs q'.nodes (BitVec.ofNat 8 q.cnt) t (List.range' q.cnt t.size)

section
variable {rd : Nat → Byte} {len : Nat} {l r : Tree} {q q2 q3 : ParseState}

theorem StandsBefore.leaf {y : Sym} (h : StandsBefore rd len (.leaf y) q) :
    rd q.p = 0x01#8 ∧ rd (q.p + 1) = y.setWidth 8 ∧ y ∉ q.seen := by
  have hb := h.bytes
  simp only [Tree.serialize, List.length_cons, List.length_nil, List.range', List.map_cons, List.map_nil,
    List.cons.injEq, and_true] at hb
  exact ⟨hb.1, hb.2, (List.nodup_cons.1 h.fresh).1⟩

/-- The bytes of an internal node are its marker and the artifacts of its subtrees (46 R210). -/
theorem StandsBefore.node_bytes (h : StandsBefore rd len (.node l r) q) :
    rd q.p = 0x00#8 ∧ (List.range' (q.p + 1) l.serialize.length).map rd = l.serialize ∧
      (List.range' (q.p + 1 + l.serialize.length) r.serialize.length).map rd = r.serialize := by
  have hb := h.bytes
  simp only [Tree.serialize, List.length_cons, List.length_append, List.range'_succ, List.map_cons,
    List.cons.injEq] at hb
  rw [← List.range'_append_1, List.map_append] at hb
  exact ⟨hb.1, List.append_inj hb.2 (by simp)⟩

theorem StandsBefore.left (h : StandsBefore rd len (.node l r) q) :
    StandsBefore rd len l { q with p := q.p + 1, cnt := q.cnt + 1 } := by
  obtain ⟨-, hbytes, -⟩ := h.node_bytes
  have hroom := h.room
  have hslots := h.slots
  have hfresh := h.fresh
  simp only [Tree.serialize, List.length_cons, List.length_append, Tree.size] at hroom hslots
  rw [Tree.symbols, List.append_assoc] at hfresh
  exact ⟨hbytes, by simp only; omega, by simp only; omega,
    hfresh.sublist ((List.sublist_append_right _ _).append_left _)⟩

theorem StandsBefore.right (h : StandsBefore rd len (.node l r) q)
    (h2 : HasRead { q with p := q.p + 1, cnt := q.cnt + 1 } l q2) : StandsBefore rd len r q2 := by
  obtain ⟨-, -, hbytes⟩ := h.node_bytes
  have hroom := h.room
  have hslots := h.slots
  have hpos := h2.pos
  have hcnt := h2.cnt
  simp only [Tree.serialize, List.length_cons, List.length_append, Tree.size] at hroom hslots
  simp only at hpos hcnt
  refine ⟨by rw [hpos]; exact hbytes, by omega, by omega, ?_⟩
  have hperm : (r.symbols ++ q2.seen).Perm (l.symbols ++ r.symbols ++ q.seen) :=
    (h2.seen.append_left _).trans (by simpa using List.perm_append_comm_assoc r.symbols l.symbols q.seen)
  exact hperm.nodup_iff.2 h.fresh

theorem hasRead_leaf {y : Sym} (h : q.cnt ≤ 255) :
    HasRead q (.leaf y) {
      p := q.p + 2, cnt := q.cnt + 1, seen := y :: q.seen,
      nodes := setNode q.nodes (BitVec.ofNat 8 q.cnt) (Node.mkLeaf y 0#32) } := by
  refine ⟨rfl, rfl, .refl _, ?_⟩
  have := hangs_mkLeaf q.nodes (BitVec.ofNat 8 q.cnt) y 0#32
  rwa [toNat_slot (by omega)] at this

/-- The right subtree's slots come after the left one's, and the node is written above both. -/
theorem hasRead_node (h : q.cnt ≤ 255) (hl : HasRead { q with p := q.p + 1, cnt := q.cnt + 1 } l q2)
    (hr : HasRead q2 r q3) (hold : ∀ j : Slot, j.toNat < q2.cnt → nodeAt q3.nodes j = nodeAt q2.nodes j) :
    HasRead q (.node l r) { q3 with
      nodes := setNode q3.nodes (BitVec.ofNat 8 q.cnt)
        (Node.mkInternal 0#32 (BitVec.ofNat 8 (q.cnt + 1)) (BitVec.ofNat 8 q2.cnt)) } := by
  have hi : (BitVec.ofNat 8 q.cnt).toNat = q.cnt := toNat_slot (by omega)
  have hcnt : q2.cnt = q.cnt + 1 + l.size := hl.cnt
  have hpos : q2.p = q.p + 1 + l.serialize.length := hl.pos
  have hleft : Hangs q3.nodes _ l (List.range' (q.cnt + 1) l.size) := hl.hangs.congr fun j hj => hold j (by
    have := List.mem_range'_1.1 hj
    simp only at this
    omega)
  have hrange : List.range' q.cnt (l.node r).size =
      q.cnt :: (List.range' (q.cnt + 1) l.size ++ List.range' q2.cnt r.size) := by
    rw [hcnt, List.range'_append_1, ← List.range'_succ, Machine.Tree.size]
    congr 1
    omega
  refine ⟨?_, ?_, ?_, ?_⟩
  · simp only [hr.pos, hpos, Tree.serialize, List.length_cons, List.length_append]
    omega
  · simp only [hr.cnt, hcnt, Tree.size]
    omega
  · exact hr.seen.trans ((hl.seen.append_left _).trans
      (by simpa [Tree.symbols] using List.perm_append_comm_assoc r.symbols l.symbols q.seen))
  · have := hangs_mkInternal (i := BitVec.ofNat 8 q.cnt) 0#32 hleft hr.hangs (by rw [hi, List.mem_range'_1]; omega)
      (by rw [hi, List.mem_range'_1]; omega)
    rwa [hi, ← hrange] at this

end

/-- The parse state once the marker of an internal node is read. -/
theorem ParseInv.marker {q : ParseState} (h : ParseInv q) (hc : q.cnt + 1 ≤ 255) :
    ParseInv { q with p := q.p + 1, cnt := q.cnt + 1 } :=
  ⟨h.arena.mono (Nat.le_succ _), h.seen, hc⟩

/-- The parse of a serialized tree reads that tree (46 R213): no check fails on it. -/
theorem parse_serialize {rd : Nat → Byte} {len : Nat} (t : Tree) {fuel : Nat} {q : ParseState} (hq : ParseInv q)
    (h : StandsBefore rd len t q) (hf : t.symbols.length ≤ fuel) :
    ∃ q', parse rd len fuel q = .ok (BitVec.ofNat 8 q.cnt, q') ∧ HasRead q t q' := by
  induction t generalizing fuel q with
  | leaf y =>
    obtain ⟨g, rfl⟩ := Nat.exists_eq_add_of_le' hf
    obtain ⟨hm, hb, hy⟩ := h.leaf
    have hroom : q.p + 2 ≤ len := h.room
    have hslots : q.cnt + 1 ≤ 255 := h.slots
    exact ⟨_, parse_leaf (by omega) hm hb (by omega) hy, hasRead_leaf (by omega)⟩
  | node l r ihl ihr =>
    have hlpos := symbols_pos l
    have hrpos := symbols_pos r
    rw [Tree.symbols, List.length_append] at hf
    obtain ⟨g, rfl⟩ : ∃ g, fuel = g + 1 := ⟨fuel - 1, by omega⟩
    have hroom := h.room
    have hslots := h.slots
    simp only [Tree.serialize, List.length_cons, Tree.size] at hroom hslots
    have hq1 := hq.marker (by omega)
    obtain ⟨q2, hp2, h2⟩ := ihl hq1 h.left (fuel := g) (by omega)
    have hq2 := (parse_parsed hq1 hp2).inv
    obtain ⟨q3, hp3, h3⟩ := ihr hq2 (h.right h2) (fuel := g) (by omega)
    exact ⟨_, parse_node (by omega) h.node_bytes.1 (by omega) hp2 hp3,
      hasRead_node (by omega) h2 h3 (parse_parsed hq2 hp3).old⟩

/-! ### The commands -/

theorem tree?_of_read {s : State} {t : Tree} (h : readTree s.nodes 128 s.root = some t) (hsize : t.size ≤ 255) :
    s.tree? = some t := by
  rw [State.tree?, h]
  exact if_pos hsize

/-- The machine has the tree `t`, with distinct symbols (10 R62). -/
structure HasTree (t : Tree) (s : State) : Prop where
  valid : s.treeValid = true
  reads : s.tree? = some t
  nodup : t.symbols.Nodup

theorem HasTree.of_same {t : Tree} {s u : State} (h : HasTree t s) (hsame : Piece.tree.same s u) : HasTree t u := by
  obtain ⟨hn, hr, -, hv⟩ := hsame
  exact ⟨hv.trans h.valid, by rw [State.tree?, hn, hr]; exact h.reads, h.nodup⟩

/-- A tree with distinct symbols has at most 128 leaves. -/
theorem size_le_of_nodup {t : Tree} (h : t.symbols.Nodup) : t.size ≤ 255 := by
  have := length_le_of_nodup h
  have := t.size_add_one
  omega

/-- With a tree, SER writes its artifact from byte 0 and TREE_LEN (46 R211). -/
theorem exec_ser_of_tree {s : State} {t : Tree} (hv : s.treeValid = true) (ht : s.tree? = some t) :
    exec .ser s = .next ({ s with
      treeMem := s.treeMem.pokes 0 t.serialize
      treeLen := BitVec.ofNat 10 t.serialize.length }.done (BitVec.ofNat 32 t.serialize.length)) := by
  change execSer s = _
  rw [execSer, if_pos hv, ht]

/-- After SER, TREE_MEM holds the artifact and TREE_LEN its length (46 R211). -/
theorem exec_ser_artifact {s : State} {t : Tree} (h : HasTree t s) :
    ∃ u, exec .ser s = .next u ∧ bytesFrom u .tree 0 t.serialize.length = t.serialize ∧
      u.treeLen.toNat = t.serialize.length := by
  have hlen := length_serialize_le (size_le_of_nodup h.nodup)
  refine ⟨_, exec_ser_of_tree h.valid h.reads, bytesFrom_eq fun k hk => ?_,
    (BitVec.toNat_ofNat ..).trans (Nat.mod_eq_of_lt (by omega))⟩
  have hread : (s.memWrites .tree 0 t.serialize).memRead .tree (0 + k) = t.serialize[k] := by
    simp [State.memRead_memWrites, hk]
  exact hread

/-- A parse that succeeds becomes the tree (46 R215). -/
theorem exec_deser_parsed {s : State} {i : Slot} {q : ParseState} (h : s.parseTree = .ok (i, q)) :
    exec .deser s = .next ({ s with
      nodes := q.nodes, root := 0#8, nodeCnt := BitVec.ofNat 9 q.cnt, treeUsed := BitVec.ofNat 10 q.p
      treeValid := true, codesValid := false }.done (BitVec.ofNat 32 q.p)) := by
  change execDeser s = _
  rw [execDeser, h]

/-- DESER of the artifact of a tree with distinct symbols rebuilds that tree (46 R215, R216). -/
theorem exec_deser_artifact {s : State} {t : Tree} (hn : t.symbols.Nodup)
    (hb : bytesFrom s .tree 0 t.serialize.length = t.serialize) (hlen : t.serialize.length ≤ s.treeLen.toNat) :
    ∃ u, exec .deser s = .next u ∧ HasTree t u := by
  have h128 := length_le_of_nodup hn
  have hsize := size_le_of_nodup hn
  have h383 := length_serialize_le hsize
  simp only [bytesFrom, Nat.zero_add, List.range_eq_range'] at hb
  obtain ⟨q, hp, hread⟩ := parse_serialize (rd := s.memRead .tree) (len := min s.treeLen.toNat 512) (fuel := 256) t
    (q := { p := 0, cnt := 0, seen := [], nodes := zeroNodes }) ⟨arenaOk_zero 0, List.nodup_nil, Nat.zero_le _⟩
    ⟨hb, by simp only; omega, by simp only; omega, by rwa [List.append_nil]⟩ (by omega)
  have hparse : s.parseTree = .ok (0#8, q) := hp
  exact ⟨_, exec_deser_parsed hparse, rfl, tree?_of_read (hread.hangs.read h128).1 hsize, hn⟩

end Sys2Proof.Safety
end

section
/-! The session of 45 R200: counting, building, encoding, copying the tree, and decoding give a text back. -/
namespace Sys2Proof.Safety
open Sys2Proof.Machine

/-! ### Runs of commands -/

theorem execAll_cons {i : Instr} {is : List Instr} {s t : State} :
    execAll (i :: is) s = .next t ↔ ∃ u, exec i s = .next u ∧ execAll is u = .next t := by
  rw [execAll]
  cases exec i s <;> simp

/-- A run goes on from the state its first part leaves. -/
theorem execAll_append {is js : List Instr} {s u : State} (h : execAll is s = .next u) :
    execAll (is ++ js) s = execAll js u := by
  induction is generalizing s with
  | nil => cases h; rfl
  | cons i is ih =>
    obtain ⟨v, hv, h⟩ := execAll_cons.1 h
    rw [List.cons_append, execAll, hv]
    exact ih h

/-- A run writes only the pieces that one of its commands may write. -/
theorem execAll_frame {is : List Instr} {ps : List Piece} {s t : State} (hw : ∀ i ∈ is, mayWrite i ⊆ ps)
    (h : execAll is s = .next t) : KeepsAllBut ps s t := by
  induction is generalizing s with
  | nil => cases h; exact keeps_refl ps _
  | cons i is ih =>
    obtain ⟨u, hu, h⟩ := execAll_cons.1 h
    exact keeps_trans (keeps_mono (hw i List.mem_cons_self) (exec_frame hu))
      (ih (fun j hj => hw j (List.mem_cons_of_mem _ hj)) h)

/-- Where no first error stands after a run without SRST, none stood before it (60 R251). -/
theorem execAll_noError {is : List Instr} {s t : State} (hi : .srst ∉ is) (h : execAll is s = .next t)
    (ht : t.errFirst = .noError) : s.errFirst = .noError := by
  induction is generalizing s with
  | nil => cases h; exact ht
  | cons i is ih =>
    rw [List.mem_cons, not_or] at hi
    obtain ⟨u, hu, h⟩ := execAll_cons.1 h
    have hnone := ih hi.2 h
    by_contra hs
    obtain ⟨-, -, -, hkeep, -⟩ := commandCompletion i s u hu
    exact hs ((hkeep (Ne.symm hi.1) hs).1.symm.trans hnone)

/-- A failing command leaves a first error recorded (60 R245). -/
theorem Failed.firstError {s t : State} {e : ErrCode} {d : Word} (h : Failed s t e d) (he : e ≠ .noError) :
    t.errFirst ≠ .noError := by
  rw [h.first]
  split <;> assumption

/-! ### Counting -/

/-- The counts are consistent, and exactly the symbols `ys` have been counted (41 R151). -/
structure Counted (ys : List Sym) (s : State) : Prop where
  inv : CountInv s
  idle : s.pending = .idle
  total : s.freqTotal.toNat = ys.length
  counted : ∀ y ∈ ys, s.freqAt y ≠ 0#32

theorem exec_freqClr_counted (s : State) : ∃ t, exec .freqClr s = .next t ∧ Counted [] t :=
  ⟨_, rfl, countInv_cleared nofun rfl rfl rfl, rfl, rfl, nofun⟩

/-- FREQ_ADD counts an in-range character, where the total has room for it (41 R151). -/
theorem Counted.freqAdd {ys : List Sym} {s : State} (h : Counted ys s) (c : Nat)
    (hroom : (ys ++ inRange [c]).length < 2 ^ 32) :
    ∃ t, exec (.freqAdd c) s = .next t ∧ Counted (ys ++ inRange [c]) t := by
  have hinit : s.pending ≠ .init := by simp [h.idle]
  rcases lt_or_ge c 128 with hc | hc
  · have hin : inRange [c] = [BitVec.ofNat 7 c] := inRange_cons_counted hc []
    rw [hin, List.length_append, List.length_singleton, ← h.total] at hroom
    have hfull : s.freqTotal ≠ 0xFFFFFFFF#32 := fun e => by rw [e] at hroom; exact absurd hroom (by decide)
    obtain ⟨t, he, hfreq, htotal, -, -, hdone, -⟩ := (freqAddCounts c s).2.2 hc hfull
    refine ⟨t, he, countInv_keptByStep.exec hinit h.inv he, hdone.idle, ?_, fun y hy => ?_⟩
    · rw [htotal, BitVec.toNat_add_of_lt hroom, h.total, hin, List.length_append, List.length_singleton]
      rfl
    · rw [hfreq]
      split
      · have hle : (s.freqAt y).toNat ≤ s.freqTotal.toNat := (freqAt_le_sum s y).trans_eq (h.inv.total hinit).symm
        have hadd : (s.freqAt y + 1#32).toNat = (s.freqAt y).toNat + 1 := BitVec.toNat_add_of_lt (by simp; omega)
        intro h0
        rw [h0] at hadd
        exact absurd hadd (by simp)
      · rename_i hne
        refine h.counted y ((List.mem_append.1 hy).resolve_right fun hmem => hne ?_)
        rw [hin, List.mem_singleton] at hmem
        rw [hmem, toNat_ofNat_char hc]
  · have hin : inRange [c] = [] := inRange_cons_dropped hc []
    obtain ⟨t, he, -, hfreq, htotal, -, hdone, -⟩ := (freqAddCounts c s).1 hc
    have hat : t.freqAt = s.freqAt := by funext y; simp only [State.freqAt, hfreq]
    rw [hin, List.append_nil]
    exact ⟨t, he, countInv_keptByStep.exec hinit h.inv he, hdone.idle, htotal ▸ h.total, hat ▸ h.counted⟩

theorem Counted.execAll_freqAdd (text : List Nat) {ys : List Sym} {s : State} (h : Counted ys s)
    (hroom : (ys ++ inRange text).length < 2 ^ 32) :
    ∃ t, execAll (text.map .freqAdd) s = .next t ∧ Counted (ys ++ inRange text) t := by
  induction text generalizing ys s with
  | nil => exact ⟨s, rfl, by rwa [inRange, List.filterMap_nil, List.append_nil]⟩
  | cons c text ih =>
    rw [inRange_cons, ← List.append_assoc] at hroom ⊢
    obtain ⟨u, hu, hcounted⟩ := h.freqAdd c (by rw [List.length_append] at hroom; omega)
    obtain ⟨t, ht, htext⟩ := ih hcounted hroom
    exact ⟨t, execAll_cons.2 ⟨u, hu, ht⟩, htext⟩

/-- FREQ_CLR and FREQ_ADD over a text count its in-range characters (41 R152). -/
theorem execAll_count {text : List Nat} (s : State) (hroom : (inRange text).length < 2 ^ 32) :
    ∃ t, execAll (.freqClr :: text.map .freqAdd) s = .next t ∧ Counted (inRange text) t ∧
      KeepsAllBut [.counts] s t := by
  obtain ⟨u, hu, hclear⟩ := exec_freqClr_counted s
  obtain ⟨t, ht, hcounted⟩ := hclear.execAll_freqAdd text hroom
  have hframe : KeepsAllBut [.counts] u t :=
    execAll_frame (fun i hi => by obtain ⟨c, -, rfl⟩ := List.mem_map.1 hi; exact List.Subset.refl _) ht
  exact ⟨t, execAll_cons.2 ⟨u, hu, ht⟩, hcounted, keeps_trans (exec_frame hu) hframe⟩

/-! ### The tree and its codes -/

theorem Counted.mem_countedSyms {ys : List Sym} {s : State} {y : Sym} (h : Counted ys s) (hy : y ∈ ys) :
    y ∈ countedSyms s := by
  refine List.mem_filter.2 ⟨List.mem_map.2 ⟨y.toNat, List.mem_range.2 y.isLt, by simp⟩, ?_⟩
  simpa using h.counted y hy

/-- BUILD and CODEGEN after counting give every counted symbol a code (42 R166, 43 R175). -/
theorem Counted.execAll_build {ys : List Sym} {s : State} (h : Counted ys s) (hys : ys ≠ []) :
    ∃ t tr, execAll [.build, .codegen] s = .next t ∧ HasTree tr t ∧ t.codesValid = true ∧ t.code = tr.codeTable ∧
      ∀ y ∈ ys, y ∈ tr.symbols := by
  have hinit : s.pending ≠ .init := by simp [h.idle]
  obtain ⟨y, hy⟩ := List.exists_mem_of_ne_nil ys hys
  have hdist : s.distinct ≠ 0#8 := fun h0 => by
    have hlen := length_countedSyms h.inv hinit
    rw [h0] at hlen
    exact List.ne_nil_of_mem (h.mem_countedSyms hy) (List.length_eq_zero_iff.1 hlen)
  obtain ⟨u, tr, hu, htree, hperm, -, hvalid, -⟩ := buildMakesTree.2 s h.inv hinit hdist
  exact ⟨_, tr, execAll_cons.2 ⟨u, hu, execAll_cons.2 ⟨_, exec_codegen_of_tree hvalid htree, rfl⟩⟩,
    ⟨hvalid, htree, hperm.nodup_iff.2 (nodup_countedSyms s)⟩, rfl, rfl,
    fun z hz => hperm.mem_iff.2 (h.mem_countedSyms hz)⟩

/-! ### Encoding -/

/-- ENC_CHAR over a text always completes, though it may fail (44 R185). -/
theorem execAll_encChar_completes (text : List Nat) (s : State) : ∃ t, execAll (text.map .encChar) s = .next t := by
  induction text generalizing s with
  | nil => exact ⟨s, rfl⟩
  | cons c text ih =>
    obtain ⟨u, hu⟩ := execEncChar_completes c s
    obtain ⟨t, ht⟩ := ih u
    exact ⟨t, execAll_cons.2 ⟨u, hu, ht⟩⟩

theorem frame_encChar {text : List Nat} {s t : State} (h : execAll (text.map .encChar) s = .next t) :
    KeepsAllBut [.bytes .cart, .cartLen] s t :=
  execAll_frame (fun i hi => by obtain ⟨c, -, rfl⟩ := List.mem_map.1 hi; exact List.Subset.refl _) h

/-- An ENC_CHAR that does not fail had room for its code (44 R185). -/
theorem HoldsBits.fits_encChar {bits : List Bool} {s t : State} {c : Nat} (h : HoldsBits bits s) (hs : HasCodes s [c])
    (hroom : bits.length ≤ 8 * (s.params.cartBytes - 4)) (he : exec (.encChar c) s = .next t)
    (hn : t.errFirst = .noError) : (bits ++ textBits s [c]).length ≤ 8 * (s.params.cartBytes - 4) := by
  obtain ⟨hl, hv, hcoded⟩ := hs
  rcases lt_or_ge c 128 with hc | hc
  · have hin : inRange [c] = [BitVec.ofNat 7 c] := inRange_cons_counted hc []
    have hbits : textBits s [c] = entryBits (s.codeAt (BitVec.ofNat 7 c)) := by
      rw [textBits, hin, List.flatMap_singleton]
    rw [hbits, List.length_append, h.length, length_entryBits]
    have h4 : 4 ≤ s.params.cartBytes := Nat.le_trans (by decide) hl.1.2.1
    by_contra hlong
    have hfail := exec_encChar_tooLong (charSym_inRange hc) hv (hcoded _ (hin ▸ List.mem_singleton_self _))
      (fun hf => hlong ((fitsCart_iff h4).1 hf))
    obtain rfl := Host.Outcome.next.inj (he.symm.trans hfail)
    exact (fails_alone s .capacity 0#32).1.firstError nofun hn
  · rwa [textBits, inRange_cons_dropped hc, inRange, List.filterMap_nil, List.flatMap_nil, List.append_nil]

/-- An encoding that never failed had room for all its codes (44 R186). -/
theorem HoldsBits.fits_execAll (text : List Nat) {bits : List Bool} {s t : State} (h : HoldsBits bits s)
    (hs : HasCodes s text) (hroom : bits.length ≤ 8 * (s.params.cartBytes - 4))
    (he : execAll (text.map .encChar) s = .next t) (hn : t.errFirst = .noError) :
    (bits ++ textBits s text).length ≤ 8 * (s.params.cartBytes - 4) := by
  induction text generalizing bits s with
  | nil => rwa [textBits_nil, List.append_nil]
  | cons c text ih =>
    obtain ⟨hchar, hrest⟩ := hasCodes_cons.1 hs
    obtain ⟨u, hu, he⟩ := execAll_cons.1 he
    have hfit := h.fits_encChar hchar hroom hu (execAll_noError (by simp) he hn)
    obtain ⟨u', hu', hbits, hk⟩ := h.encChar hchar hfit
    obtain rfl := Host.Outcome.next.inj (hu.symm.trans hu')
    have hall := ih hbits (hrest.keeps hk) (by rwa [(keeps_codes hk).1]) he
    rwa [textBits_keeps hk, (keeps_codes hk).1, List.append_assoc, ← textBits_cons] at hall

/-- CART holds the whole artifact of the stream `bits`, within its capacity (40 R142, 44 R186). -/
structure HoldsArtifact (bits : List Bool) (s : State) : Prop where
  stream : streamOf s = bits
  cartLen : s.cartLen.toNat = 4 + ceil8 s.be32.toNat
  fits : 4 + ceil8 s.be32.toNat ≤ s.params.cartBytes

/-- Encoding a text whose symbols have codes completes, and where it did not fail the text's codes are the stream
(44 R186). -/
theorem execAll_encode {text : List Nat} {s : State} (hs : HasCodes s text) :
    ∃ t, execAll (encBegin :: text.map .encChar) s = .next t ∧ KeepsAllBut [.bytes .cart, .cartLen] s t ∧
      (t.errFirst = .noError → HoldsArtifact (textBits s text) t) := by
  obtain ⟨u, hu, hempty, hk⟩ := exec_encBegin hs.1
  obtain ⟨t, ht⟩ := execAll_encChar_completes text u
  have hkeeps := keeps_trans hk (frame_encChar ht)
  refine ⟨t, execAll_cons.2 ⟨u, hu, ht⟩, hkeeps, fun hn => ?_⟩
  have hfit := hempty.fits_execAll text (hs.keeps hk) (Nat.zero_le _) ht hn
  obtain ⟨t', ht', hbits, -⟩ := hempty.execAll_encChar text (hs.keeps hk) hfit
  obtain rfl := Host.Outcome.next.inj (ht.symm.trans ht')
  rw [List.nil_append, textBits_keeps hk] at hbits hfit
  have h4 : 4 ≤ s.params.cartBytes := Nat.le_trans (by decide) hs.1.1.2.1
  rw [hbits.length, (keeps_codes hk).1, ← fitsCart_iff h4] at hfit
  exact ⟨hbits.stream, hbits.cartLen, (keeps_codes hkeeps).1 ▸ of_decide_eq_true hfit⟩

/-! ### Copying the tree -/

/-- Copying the tree through TREE_MEM with SER and DESER, or not, leaves the same tree (46 R218). -/
theorem execAll_copy {copy : List Instr} (hcopy : copy = [.ser, .deser] ∨ copy = []) {tr : Tree} {s : State}
    (h : HasTree tr s) : ∃ t, execAll copy s = .next t ∧ HasTree tr t ∧
      KeepsAllBut [.tree, .codesValid, .treeUsed, .bytes .tree, .treeLen] s t := by
  rcases hcopy with rfl | rfl
  · obtain ⟨u, hu, hbytes, hlen⟩ := exec_ser_artifact h
    obtain ⟨t, ht, htree⟩ := exec_deser_artifact h.nodup hbytes hlen.ge
    have hrun : execAll [.ser, .deser] s = .next t := execAll_cons.2 ⟨u, hu, execAll_cons.2 ⟨t, ht, rfl⟩⟩
    exact ⟨t, hrun, htree, execAll_frame (by decide) hrun⟩
  · exact ⟨s, rfl, h, keeps_refl _ s⟩

theorem HoldsArtifact.keeps {bits : List Bool} {ps : List Piece} {s t : State} (h : HoldsArtifact bits s)
    (hk : KeepsAllBut ps s t) (hcart : .bytes .cart ∉ ps) (hlen : .cartLen ∉ ps) (henv : .env ∉ ps) :
    HoldsArtifact bits t := by
  have hread : ∀ a, t.memRead .cart a = s.memRead .cart a := hk _ hcart
  have hbits : t.getbit = s.getbit := by funext i; simp only [State.getbit, hread]
  have hcount : t.be32 = s.be32 := by simp only [State.be32, hread]
  have hcartLen : t.cartLen = s.cartLen := hk _ hlen
  obtain ⟨hparams, -⟩ := hk _ henv
  exact ⟨by rw [streamOf, hcount, hbits]; exact h.stream, by rw [hcartLen, hcount]; exact h.cartLen,
    by rw [hcount, hparams]; exact h.fits⟩

/-! ### Decoding -/

/-- The walk follows a leaf's path down and starts again at the root (45 R195). -/
theorem decodeBits_path {root l r : Tree} {y : Sym} {w bs : List Bool} (h : (y, w) ∈ paths (.node l r)) :
    decodeBits root (.node l r) (w ++ bs) = y :: decodeBits root root bs := by
  induction w generalizing l r with
  | nil => exact absurd rfl (codeWord_ne_nil (t := .node l r) h)
  | cons b w ih =>
    have hsub : (y, w) ∈ paths (if b then r else l) := by
      rcases List.mem_append.1 h with h | h <;> obtain ⟨e, he, heq⟩ := List.mem_map.1 h <;> cases heq <;> exact he
    rw [List.cons_append, decodeBits]
    generalize (if b then r else l) = sub at *
    cases sub with
    | leaf z => cases List.mem_singleton.1 hsub; rfl
    | node l' r' => exact ih hsub

/-- The walk over the words of a text's symbols names the text (45 R195). -/
theorem decodeBits_flatMap {l r : Tree} {w : Sym → List Bool} {ys : List Sym}
    (h : ∀ y ∈ ys, (y, w y) ∈ codeWords (.node l r)) :
    decodeBits (.node l r) (.node l r) (ys.flatMap w) = ys := by
  induction ys with
  | nil => rfl
  | cons y ys ih =>
    rw [List.flatMap_cons, decodeBits_path (h y List.mem_cons_self), ih fun z hz => h z (List.mem_cons_of_mem _ hz)]

theorem getbit_of_streamOf {s : State} {bits : List Bool} (h : streamOf s = bits) {i : Nat} (hi : i < bits.length) :
    s.getbit i = bits[i] := by
  subst h
  simp [streamOf]

section
variable {s : State}

/-- DECODE of `n` 1-bits gives `n` times the lone leaf's symbol (45 R197). -/
theorem exec_decode_ones {y : Sym} {n : Nat} (hl : s.params.Legal) (ht : HasTree (.leaf y) s)
    (ha : HoldsArtifact (List.replicate n true) s) (hroom : n ≤ s.params.outBytes) :
    ∃ t, exec .decode s = .next t ∧ bytesFrom t .out 0 n = List.replicate n (y.setWidth 8) ∧ t.outLen.toNat = n := by
  have hn : s.be32.toNat = n := by rw [← length_streamOf, ha.stream, List.length_replicate]
  have hones : ∀ i, i < s.be32.toNat → s.getbit i = true := fun i hi => by
    rw [getbit_of_streamOf ha.stream (by rwa [List.length_replicate, ← hn]), List.getElem_replicate]
  obtain ⟨t, he, hout, hlen, -⟩ :=
    (decodeLoneLeaf s y hl ht.valid ht.reads (le_min ha.cartLen.ge ha.fits)).1 (hn.trans_le hroom) hones
  have hbytes := bytesFrom_eq (s := t) (m := .out) (a := 0) (bs := List.replicate n (y.setWidth 8)) fun k hk => by
    rw [List.length_replicate] at hk
    rw [Nat.zero_add, hout, if_pos (by omega), List.getElem_replicate]
  rw [List.length_replicate] at hbytes
  exact ⟨t, he, hbytes, hlen.trans hn⟩

/-- DECODE of the words of symbols gives the symbols back, where OUT has room for them (45 R200). -/
theorem exec_decode_words {tr : Tree} {w : Sym → List Bool} {ys : List Sym} (hl : s.params.Legal)
    (ht : HasTree tr s) (ha : HoldsArtifact (ys.flatMap w) s) (hw : ∀ y ∈ ys, (y, w y) ∈ codeWords tr)
    (hroom : ys.length ≤ s.params.outBytes) :
    ∃ t, exec .decode s = .next t ∧ bytesFrom t .out 0 ys.length = ys.map (fun y => y.setWidth 8) ∧
      t.outLen.toNat = ys.length := by
  cases tr with
  | leaf y =>
    have hone : ∀ z ∈ ys, z = y ∧ w z = [true] := fun z hz => Prod.mk.inj (List.mem_singleton.1 (hw z hz))
    obtain ⟨n, rfl⟩ : ∃ n, ys = List.replicate n y := ⟨_, List.eq_replicate_of_mem fun z hz => (hone z hz).1⟩
    rw [List.flatMap_congr fun z hz => (hone z hz).2, List.flatMap_replicate, List.flatten_replicate_singleton] at ha
    rw [List.length_replicate, List.map_replicate] at *
    exact exec_decode_ones hl ht ha hroom
  | node l r =>
    have hdec := decodeWalksTree s l r hl ht.valid ht.reads (le_min ha.cartLen.ge ha.fits)
    rw [ha.stream, decodeBits_flatMap hw] at hdec
    obtain ⟨t, k, he, rfl, hbytes, -, hlen, -⟩ := hdec.1 hroom
    exact ⟨t, he, hbytes, hlen⟩

end

/-! ### The session -/

/-- The words of the codes are those of the tree they were made from (43 R175). -/
theorem hasCodes_of_tree {tr : Tree} {s : State} {text : List Nat} (hl : s.params.Legal) (ht : HasTree tr s)
    (hv : s.codesValid = true) (hc : s.code = tr.codeTable) (hmem : ∀ y ∈ inRange text, y ∈ tr.symbols) :
    HasCodes s text :=
  ⟨hl, hv, fun y hy h0 => by
    have := (clen_pos_iff hc ht.nodup).2 (hmem y hy)
    rw [h0] at this
    exact absurd this (by decide)⟩

/-- Settles O44: each part of the session hands on what the next needs, the tree through SER and DESER too, and an
ENC_CHAR that lacked room would have recorded a first error. -/
theorem sessionRoundTrip : Obligations.SessionRoundTrip := by
  intro text copy s hcopy hm _ htext hroom
  obtain ⟨-, -, -, h64k⟩ := hm.legal
  obtain ⟨s1, h1, hcounted, hk1⟩ := execAll_count (text := text) s (by omega)
  obtain ⟨s2, tr, h2, htree, hv, hcode, hmem⟩ := hcounted.execAll_build htext
  have hk2 : KeepsAllBut [.tree, .codes, .codesValid, .queue] s1 s2 := execAll_frame (by decide) h2
  have hparams2 : s2.params = s.params := (hk2 .env (by decide)).1.trans (hk1 .env (by decide)).1
  have hs := hasCodes_of_tree (hparams2 ▸ hm.legal) htree hv hcode hmem
  obtain ⟨s3, h3, hk3, hart⟩ := execAll_encode hs
  obtain ⟨-, -, hcoded⟩ := hs
  obtain ⟨s4, h4, htree4, hk4⟩ := execAll_copy hcopy (htree.of_same (hk3 .tree (by decide)))
  obtain ⟨t, h5⟩ : ∃ t, exec .decode s4 = .next t := ⟨_, rfl⟩
  have hlast : execAll (copy ++ [.decode]) s3 = .next t := (execAll_append h4).trans (execAll_cons.2 ⟨t, h5, rfl⟩)
  refine ⟨t, ?_, fun hn => ?_⟩
  · have h23 : execAll ([.build, .codegen, encBegin] ++ text.map .encChar) s1 = .next s3 := (execAll_append h2).trans h3
    rw [List.append_assoc _ copy, List.append_assoc _ (text.map _), List.append_assoc, execAll_append h1]
    exact (execAll_append h23).trans hlast
  · have hsrst : .srst ∉ copy ++ [Instr.decode] := by rcases hcopy with rfl | rfl <;> decide
    have hart4 := (hart (execAll_noError hsrst hlast hn)).keeps hk4 (by decide) (by decide) (by decide)
    have hparams4 : s4.params = s.params :=
      (hk4 .env (by decide)).1.trans ((hk3 .env (by decide)).1.trans hparams2)
    obtain ⟨t', h5', hbytes, hlen⟩ := exec_decode_words (w := fun y => entryBits (s2.codeAt y)) (hparams4 ▸ hm.legal)
      htree4 hart4 (fun y hy => codeAt_mem_codeWords hcode htree.nodup (hcoded y hy)) (hparams4 ▸ hroom)
    obtain rfl := Host.Outcome.next.inj (h5.symm.trans h5')
    exact ⟨hbytes, hlen⟩

end Sys2Proof.Safety
end

section
/-! The one-pass reading of a tree artifact (46 R213, R214), check by check, and the bounds on its answers. -/
namespace Sys2Proof.Safety
open Sys2Proof.Machine

/-! ### The checks at one node -/

section
variable {m y : Byte} {rest seen : List Byte} {need cnt p : Nat}

theorem deserScan_none (bs : List Byte) : deserScan bs 0 cnt seen p = .ok p := by
  cases bs <;> rfl

theorem deserScan_nil : deserScan [] (need + 1) cnt seen p = .error 1 := rfl

theorem deserScan_badMarker (h0 : m ≠ 0x00#8) (h1 : m ≠ 0x01#8) :
    deserScan (m :: rest) (need + 1) cnt seen p = .error 2 := by
  simp [deserScan.eq_def, h0, h1]

theorem deserScan_tooManyNodes (hm : m = 0x00#8 ∨ m = 0x01#8) :
    deserScan (m :: rest) (need + 1) 255 seen p = .error 5 := by
  rcases hm with rfl | rfl <;> simp [deserScan.eq_def]

theorem deserScan_internal (hc : cnt ≠ 255) :
    deserScan (0x00#8 :: rest) (need + 1) cnt seen p = deserScan rest (need + 2) (cnt + 1) seen (p + 1) := by
  rw [deserScan.eq_def]
  simp [hc]

theorem deserScan_leaf_cut (hc : cnt ≠ 255) : deserScan [0x01#8] (need + 1) cnt seen p = .error 1 := by
  simp [deserScan.eq_def, hc]

theorem deserScan_leaf (hc : cnt ≠ 255) :
    deserScan (0x01#8 :: y :: rest) (need + 1) cnt seen p =
      if 128 ≤ y.toNat then .error 3 else if y ∈ seen then .error 4
      else deserScan rest need (cnt + 1) (y :: seen) (p + 2) := by
  rw [deserScan.eq_def]
  simp [hc]

end

/-- The pass consumes bytes that are present, or answers one of the details of 46 R214. -/
theorem deserScan_bounds (bs : List Byte) (need cnt : Nat) (seen : List Byte) (p : Nat) :
    (∀ p', deserScan bs need cnt seen p = .ok p' → p' ≤ p + bs.length) ∧
      ∀ d, deserScan bs need cnt seen p = .error d → 1 ≤ d ∧ d ≤ 5 := by
  -- the pass goes on past an internal marker (`case4`) and past a leaf (`case9`), and ends in every other case
  fun_induction deserScan bs need cnt seen p with
  | case4 rest need cnt seen p hc ih =>
    exact ⟨fun p' h => by have := ih.1 p' h; simp only [List.length_cons]; omega, ih.2⟩
  | case9 need cnt seen p hc y rest hy hs hm ih =>
    exact ⟨fun p' h => by have := ih.1 p' h; simp only [List.length_cons]; omega, ih.2⟩
  | case1 bs cnt seen p => exact ⟨fun p' h => by cases h; omega, nofun⟩
  | _ => exact ⟨nofun, fun d h => by cases h; decide⟩

end Sys2Proof.Safety
end

section
/-! The parse of DESER answers what the one pass over its bytes answers (46 R213, R214). -/
namespace Sys2Proof.Safety
open Sys2Proof.Machine

@[simp] theorem length_bytesFrom (s : State) (m : ByteMem) (a n : Nat) : (bytesFrom s m a n).length = n := by
  simp [bytesFrom]

theorem bytesFrom_succ (s : State) (m : ByteMem) (a n : Nat) :
    bytesFrom s m a (n + 1) = s.memRead m a :: bytesFrom s m (a + 1) n := by
  simp only [bytesFrom, List.range_succ_eq_map, List.map_cons, List.map_map, Nat.add_zero, List.cons.injEq, true_and]
  exact List.map_congr_left fun k _ => congrArg (s.memRead m) (by omega : a + (k + 1) = a + 1 + k)

theorem bytesFrom_add (s : State) (m : ByteMem) (a k n : Nat) :
    bytesFrom s m a (k + n) = bytesFrom s m a k ++ bytesFrom s m (a + k) n := by
  simp [bytesFrom, List.range_add, Nat.add_assoc]

/-- A run of bytes that are all `b`. -/
theorem bytesFrom_replicate {s : State} {m : ByteMem} {n : Nat} {b : Byte} (h : ∀ a, a < n → s.memRead m a = b) :
    bytesFrom s m 0 n = List.replicate n b := by
  refine List.eq_replicate_iff.2 ⟨length_bytesFrom .., fun c hc => ?_⟩
  obtain ⟨k, hk, rfl⟩ := List.mem_map.1 hc
  rw [Nat.zero_add]
  exact h k (List.mem_range.1 hk)

/-- The bytes still to read are the next byte and those after it. -/
theorem bytesFrom_of_lt {s : State} {m : ByteMem} {p len : Nat} (h : p < len) :
    bytesFrom s m p (len - p) = s.memRead m p :: bytesFrom s m (p + 1) (len - (p + 1)) := by
  rw [← bytesFrom_succ]
  congr 1
  omega

/-- The symbols as the bytes that carry them. -/
def symBytes (ys : List Sym) : List Byte := ys.map fun y => y.setWidth 8

theorem toNat_symByte (y : Sym) : (y.setWidth 8 : Byte).toNat = y.toNat :=
  BitVec.toNat_setWidth_of_le (by decide)

theorem symByte_lt (y : Sym) : ¬ 128 ≤ (y.setWidth 8 : Byte).toNat := by
  rw [toNat_symByte]
  exact Nat.not_le.2 y.isLt

/-- Symbols and the bytes that carry them are the same, so one has been seen where the other has. -/
theorem symByte_mem {y : Sym} {ys : List Sym} : y.setWidth 8 ∈ symBytes ys ↔ y ∈ ys := by
  refine List.mem_map_of_injective fun x z h => ?_
  have := congrArg BitVec.toNat h
  simp only [toNat_symByte] at this
  exact BitVec.eq_of_toNat_eq this

/-- A byte below 128 carries a symbol. -/
theorem exists_symByte {b : Byte} (h : ¬ 128 ≤ b.toNat) : ∃ y : Sym, b = y.setWidth 8 :=
  ⟨b.setWidth 7, BitVec.eq_of_toNat_eq (by rw [toNat_symByte, BitVec.toNat_setWidth]; omega)⟩

/-- The pass over the bytes that a parse state has still to read, with what it has allocated and seen. -/
def scanFrom (s : State) (len need : Nat) (q : ParseState) : Except Nat Nat :=
  deserScan (bytesFrom s .tree q.p (len - q.p)) need q.cnt (symBytes q.seen) q.p

/-- How the pass goes on after a call of `parse()`: it stops with the detail, or still wants `need` subtrees. -/
def scanAfter (s : State) (len need : Nat) : Except CorruptDetail (Slot × ParseState) → Except Nat Nat
  | .error d => .error d.word.toNat
  | .ok (_, q) => scanFrom s len need q

section
variable {s : State} {len fuel : Nat} {q : ParseState}

/-- Past a leaf marker: the symbol byte may be missing, too large or seen before (46 R213). -/
theorem scanFrom_leaf (need : Nat) (hp : q.p < len) (hc : q.cnt ≠ 255) (hm : s.memRead .tree q.p = 0x01#8) :
    scanFrom s len (need + 1) q = scanAfter s len need (parse (s.memRead .tree) len (fuel + 1) q) := by
  rw [scanFrom, bytesFrom_of_lt hp, hm, parse, if_neg (by omega), if_neg (by simp [hm]), if_neg hc]
  simp only [hm, if_true, parseLeaf]
  rcases Nat.lt_or_ge (q.p + 1) len with hp1 | hp1
  · rw [bytesFrom_of_lt hp1, deserScan_leaf hc, if_neg (Nat.not_le.2 hp1)]
    by_cases hb : 128 ≤ (s.memRead .tree (q.p + 1)).toNat
    · rw [if_pos hb, if_pos hb]
      rfl
    · obtain ⟨y, hy⟩ := exists_symByte hb
      have hsym : (y.setWidth 8 : Byte).setWidth 7 = y := by simp
      simp only [ge_iff_le, hy, if_neg (symByte_lt y), symByte_mem, hsym]
      split <;> rfl
  · rw [if_pos hp1, Nat.sub_eq_zero_of_le hp1]
    exact deserScan_leaf_cut hc

/-- Past an internal marker, where each call with less fuel is one subtree of the pass (46 R213). -/
theorem scanFrom_internal (need : Nat) (hq : ParseInv q) (hf : 256 ≤ q.cnt + (fuel + 1)) (hp : q.p < len)
    (hc : q.cnt ≠ 255) (hm : s.memRead .tree q.p = 0x00#8)
    (ih : ∀ {q : ParseState} need, ParseInv q → 256 ≤ q.cnt + fuel →
      scanFrom s len (need + 1) q = scanAfter s len need (parse (s.memRead .tree) len fuel q)) :
    scanFrom s len (need + 1) q = scanAfter s len need (parse (s.memRead .tree) len (fuel + 1) q) := by
  have hsmall := hq.small
  have hq1 := hq.marker (by omega)
  rw [scanFrom, bytesFrom_of_lt hp, hm, deserScan_internal hc, parse, if_neg (by omega), if_neg (by simp [hm]),
    if_neg hc]
  simp only [hm, if_neg (show ¬ (0x00#8 = 0x01#8) by decide)]
  refine (ih (need + 1) hq1 (by simp only; omega)).trans ?_
  cases h2 : parse (s.memRead .tree) len fuel { q with p := q.p + 1, cnt := q.cnt + 1 } with
  | error d => rfl
  | ok r2 =>
    obtain ⟨l, q2⟩ := r2
    have hl := parse_parsed hq1 h2
    obtain ⟨-, n, hn, -, -⟩ := hl.tree
    simp only at hn
    refine (ih need hl.inv (by omega)).trans ?_
    simp only
    cases parse (s.memRead .tree) len fuel q2 <;> rfl

/-- One call of `parse()` is one subtree of the pass: both make the same checks on the same bytes in the same order. -/
theorem scanFrom_succ (need : Nat) (hq : ParseInv q) (hf : 256 ≤ q.cnt + fuel) :
    scanFrom s len (need + 1) q = scanAfter s len need (parse (s.memRead .tree) len fuel q) := by
  induction fuel generalizing q need with
  | zero => exact absurd hq.small (by omega)
  | succ fuel ih =>
    rcases Nat.lt_or_ge q.p len with hp | hp
    · by_cases hm : s.memRead .tree q.p = 0x00#8 ∨ s.memRead .tree q.p = 0x01#8
      · by_cases hc : q.cnt = 255
        · rw [scanFrom, bytesFrom_of_lt hp, hc, deserScan_tooManyNodes hm, parse, if_neg (by omega),
            if_neg (by tauto), if_pos hc]
          rfl
        · rcases hm with hm | hm
          · exact scanFrom_internal need hq hf hp hc hm ih
          · exact scanFrom_leaf need hp hc hm
      · rw [not_or] at hm
        rw [scanFrom, bytesFrom_of_lt hp, deserScan_badMarker hm.1 hm.2, parse, if_neg (by omega), if_pos hm]
        rfl
    · rw [scanFrom, Nat.sub_eq_zero_of_le hp, parse, if_pos hp]
      rfl

end

/-- The pass over the bytes present answers the bytes that DESER's parse consumes, or its detail (46 R213, R215). -/
theorem deserScan_parseTree (s : State) :
    deserScan (bytesFrom s .tree 0 (min s.treeLen.toNat 512)) 1 0 [] 0 =
      scanAfter s (min s.treeLen.toNat 512) 0 s.parseTree :=
  scanFrom_succ (q := { p := 0, cnt := 0, seen := [], nodes := zeroNodes }) 0
    ⟨arenaOk_zero 0, List.nodup_nil, Nat.zero_le _⟩ (Nat.le_refl _)

end Sys2Proof.Safety
end

section
/-! SER and DESER as commands (46 R211 to R219): what each leaves, and what DESER makes of artifacts whole and cut short. -/
namespace Sys2Proof.Safety
open Sys2Proof.Machine

/-! ### Artifacts in one pass -/

/-- The grammar leaves SER no choice: the artifact of a tree is its serialization (46 R210). -/
theorem IsArtifact.eq_serialize {bs : List Byte} {t : Tree} (h : IsArtifact bs t) : bs = t.serialize := by
  induction h with
  | leaf y b hb => rw [Tree.serialize, BitVec.eq_of_toNat_eq (hb.trans (toNat_symByte y).symm)]
  | node bl br l r _ _ ihl ihr => rw [ihl, ihr, Tree.serialize]

section
variable {t l r : Tree} {cnt : Nat} {seen : List Sym}

/-- The tree has room in the arena and symbols not yet seen, so that no check of 46 R213 fails on it. -/
structure Readable (t : Tree) (cnt : Nat) (seen : List Sym) : Prop where
  slots : cnt + t.size ≤ 255
  fresh : (t.symbols ++ seen).Nodup

theorem Readable.slot_free (h : Readable t cnt seen) : cnt ≠ 255 := by
  have := h.slots
  have := t.size_pos
  omega

theorem Readable.left (h : Readable (.node l r) cnt seen) : Readable l (cnt + 1) seen := by
  obtain ⟨hslots, hfresh⟩ := h
  rw [Tree.size] at hslots
  rw [Tree.symbols, List.append_assoc] at hfresh
  exact ⟨by omega, hfresh.sublist ((List.sublist_append_right _ _).append_left _)⟩

theorem Readable.right (h : Readable (.node l r) cnt seen) :
    Readable r (cnt + 1 + l.size) (l.symbols.reverse ++ seen) := by
  obtain ⟨hslots, hfresh⟩ := h
  rw [Tree.size] at hslots
  have hperm : (r.symbols ++ (l.symbols.reverse ++ seen)).Perm (l.symbols ++ r.symbols ++ seen) := by
    rw [← List.append_assoc]
    exact (List.perm_append_comm.trans ((List.reverse_perm _).append_right _)).append_right _
  exact ⟨by omega, hperm.nodup_iff.2 hfresh⟩

/-- The pass over a whole artifact has one subtree fewer to read (46 R213). -/
theorem deserScan_serialize (h : Readable t cnt seen) (rest : List Byte) (need p : Nat) :
    deserScan (t.serialize ++ rest) (need + 1) cnt (symBytes seen) p =
      deserScan rest need (cnt + t.size) (symBytes (t.symbols.reverse ++ seen)) (p + t.serialize.length) := by
  induction t generalizing cnt seen rest need p with
  | leaf y =>
    have hy : y ∉ seen := (List.nodup_cons.1 h.fresh).1
    rw [Tree.serialize, List.cons_append, List.cons_append, deserScan_leaf h.slot_free, if_neg (symByte_lt y),
      if_neg (symByte_mem.not.2 hy)]
    rfl
  | node l r ihl ihr =>
    rw [Tree.serialize, List.cons_append, List.append_assoc, deserScan_internal h.slot_free, ihl h.left, ihr h.right]
    congr 1
    · rw [Tree.size]; omega
    · rw [Tree.symbols, List.reverse_append, List.append_assoc]
    · rw [List.length_cons, List.length_append]; omega

/-- The pass over an artifact cut short finds its bytes at an end (46 R214). -/
theorem deserScan_truncated (h : Readable t cnt seen) {k : Nat} (hk : k < t.serialize.length) (need p : Nat) :
    deserScan (t.serialize.take k) (need + 1) cnt (symBytes seen) p = .error 1 := by
  induction t generalizing cnt seen k need p with
  | leaf y =>
    match k, hk with
    | 0, _ => exact deserScan_nil
    | 1, _ => exact deserScan_leaf_cut h.slot_free
  | node l r ihl ihr =>
    cases k with
    | zero => exact deserScan_nil
    | succ k =>
      rw [Tree.serialize, List.length_cons, List.length_append] at hk
      rw [Tree.serialize, List.take_succ_cons, deserScan_internal h.slot_free, List.take_append]
      rcases Nat.lt_or_ge k l.serialize.length with hl | hl
      · rw [Nat.sub_eq_zero_of_le hl.le, List.take_zero, List.append_nil]
        exact ihl h.left hl (need + 1) (p + 1)
      · rw [List.take_of_length_le hl, deserScan_serialize h.left]
        exact ihr h.right (by omega) need _

end

/-- 256 markers of internal nodes in a row ask for a slot too many (46 R214). -/
theorem deserScan_internals {k cnt : Nat} (hk : cnt + k = 256) (hc : cnt ≤ 255) (rest seen : List Byte) (need p : Nat) :
    deserScan (List.replicate k 0x00#8 ++ rest) (need + 1) cnt seen p = .error 5 := by
  induction k generalizing cnt need p with
  | zero => omega
  | succ k ih =>
    rw [List.replicate_succ, List.cons_append]
    by_cases h : cnt = 255
    · rw [h]
      exact deserScan_tooManyNodes (.inl rfl)
    · rw [deserScan_internal h]
      exact ih (by omega) (by omega) (need + 1) (p + 1)

/-! ### DESER -/

/-- No slot has a frequency (46 R217). -/
def NoFreqs (nodes : Vector Node 256) : Prop := ∀ i, (nodeAt nodes i).nfreq = 0#32

theorem NoFreqs.setNode {nodes : Vector Node 256} {n : Node} (h : NoFreqs nodes) (j : Slot) (hn : n.nfreq = 0#32) :
    NoFreqs (setNode nodes j n) := by
  intro i
  rw [nodeAt_setNode]
  split
  · exact hn
  · exact h i

/-- The artifact has no frequencies, and the parse writes none (46 R217). -/
theorem parse_noFreqs {rd : Nat → Byte} {len fuel : Nat} {i : Slot} {q q' : ParseState}
    (hp : parse rd len fuel q = .ok (i, q')) (h : NoFreqs q.nodes) : NoFreqs q'.nodes := by
  induction fuel generalizing i q q' with
  | zero => cases hp
  | succ fuel ih =>
    obtain ⟨-, -, ⟨y, -, rfl⟩ | ⟨l, q2, r, q3, h2, h3, rfl⟩⟩ := parse_ok hp
    · exact h.setNode _ rfl
    · exact (ih h3 (ih h2 h)).setNode _ rfl

/-- `t` is what a DESER that consumed `p` bytes leaves (46 R215, R217). -/
structure LeavesTree (s t : State) (p : Nat) : Prop where
  valid : t.treeValid = true
  codes : t.codesValid = false
  root : t.root = 0#8
  ok : TreeOk t.nodes t.root t.nodeCnt.toNat
  used : t.treeUsed.toNat = p
  freqs : NoFreqs t.nodes
  completed : Completed s t (BitVec.ofNat 32 p)

/-- `t` is what a DESER that failed with detail `d` leaves: no tree at all (46 R215). -/
structure LeavesNoTree (s t : State) (d : Nat) : Prop where
  failed : Failed s t .corruptFormat (BitVec.ofNat 32 d)
  valid : t.treeValid = false
  codes : t.codesValid = false
  nodes : ∀ i, nodeAt t.nodes i = Node.zero
  root : t.root = 0#8
  cnt : t.nodeCnt = 0#9
  used : t.treeUsed = 0#10

/-- The one-pass reading of the bytes that DESER finds present (46 R213, R215). -/
abbrev scanTreeMem (s : State) : Except Nat Nat := deserScan (bytesFrom s .tree 0 (min s.treeLen.toNat 512)) 1 0 [] 0

section
variable {s : State}

/-- Where the pass reaches an end, DESER leaves the tree (46 R215). -/
theorem exec_deser_of_scan {p : Nat} (h : scanTreeMem s = .ok p) : ∃ t, exec .deser s = .next t ∧ LeavesTree s t p := by
  have hp := (deserScan_bounds _ _ _ _ _).1 p h
  rw [scanTreeMem, deserScan_parseTree] at h
  cases hq : s.parseTree with
  | error d => rw [hq] at h; cases h
  | ok r =>
    obtain ⟨i, q⟩ := r
    rw [hq, scanAfter, scanFrom, deserScan_none] at h
    cases h
    obtain ⟨hok, -⟩ := parseTree_treeOk hq
    have hfreqs : NoFreqs q.nodes := parse_noFreqs hq fun i => by rw [nodeAt_zeroNodes]; rfl
    rw [length_bytesFrom] at hp
    exact ⟨_, exec_deser_parsed hq, rfl, rfl, rfl, (toNat_nodeCnt hok.small).symm ▸ hok,
      (BitVec.toNat_ofNat ..).trans (Nat.mod_eq_of_lt (by omega)), hfreqs, completed_done _ rfl rfl⟩

/-- A parse that fails leaves no tree (46 R215). -/
theorem exec_deser_rejected {d : CorruptDetail} (h : s.parseTree = .error d) :
    exec .deser s = .next (s.dropTree.raise .corruptFormat d.word) := by
  change execDeser s = _
  rw [execDeser, h]

/-- Where a check of the pass fails, DESER fails with its detail and leaves no tree (46 R215). -/
theorem exec_deser_of_scan_error {d : Nat} (h : scanTreeMem s = .error d) :
    ∃ t, exec .deser s = .next t ∧ LeavesNoTree s t d := by
  rw [scanTreeMem, deserScan_parseTree] at h
  cases hq : s.parseTree with
  | error e =>
    rw [hq] at h
    cases h
    have hword : BitVec.ofNat 32 e.word.toNat = e.word := by simp
    have hfailed : Failed s _ .corruptFormat e.word := failed_raise (u := s.dropTree) _ _ rfl rfl rfl
    exact ⟨_, exec_deser_rejected hq, hword.symm ▸ hfailed, rfl, rfl, nodeAt_zeroNodes, rfl, rfl, rfl⟩
  | ok r =>
    obtain ⟨i, q⟩ := r
    rw [hq, scanAfter, scanFrom, deserScan_none] at h
    cases h

theorem readable_whole {t : Tree} (hn : t.symbols.Nodup) (hsize : t.size ≤ 255) : Readable t 0 [] :=
  ⟨by rwa [Nat.zero_add], by rwa [List.append_nil]⟩

/-- Settles O46: the pass reaches the artifact's end whatever follows, and the parse reads the tree. -/
theorem deserRebuildsTree : Obligations.DeserRebuildsTree := by
  intro s bs tr hart hn hsize hbytes hlen
  obtain rfl := hart.eq_serialize
  have hscan : scanTreeMem s = .ok tr.serialize.length := by
    obtain ⟨rest, hrest⟩ : tr.serialize <+: bytesFrom s .tree 0 (min s.treeLen.toNat 512) := by
      rw [← hbytes, ← take_bytesFrom s .tree 0 hlen]
      exact List.take_prefix _ _
    rw [scanTreeMem, ← hrest]
    exact (deserScan_serialize (readable_whole hn hsize) rest 0 0).trans
      ((deserScan_none rest).trans (by rw [Nat.zero_add]))
  obtain ⟨t, he, ht⟩ := exec_deser_of_scan hscan
  obtain ⟨t', he', htree⟩ := exec_deser_artifact hn hbytes (hlen.trans (Nat.min_le_left _ _))
  obtain rfl := Host.Outcome.next.inj (he.symm.trans he')
  obtain ⟨tr', hreads, -, -, hcnt⟩ := tree?_of_ok ht.ok
  obtain rfl := Option.some.inj (htree.reads.symm.trans hreads)
  exact ⟨t, he, hreads, ht.valid, ht.codes, ht.root, hcnt.symm, ht.used, ht.freqs, ht.completed, exec_frame he⟩

/-- Settles O47: the pass over the cut artifact ends before its tree does. -/
theorem deserRejectsTruncated : Obligations.DeserRejectsTruncated := by
  intro s bs tr hart hn hsize hlen hbytes
  obtain rfl := hart.eq_serialize
  have h512 := length_serialize_le hsize
  have hscan : scanTreeMem s = .error 1 := by
    rw [scanTreeMem, Nat.min_eq_left (by omega), hbytes]
    exact deserScan_truncated (readable_whole hn hsize) hlen 0 0
  obtain ⟨t, he, ht⟩ := exec_deser_of_scan_error hscan
  exact ⟨t, he, ht.failed, ht.valid, ht.codes, ht.nodes, ht.root, ht.cnt, ht.used⟩

/-- Settles O48: the pass either reaches an end within the bytes present or answers a detail of 46 R214. -/
theorem deserAllOrNothing : Obligations.DeserAllOrNothing := by
  intro s
  obtain ⟨hle, hdetail⟩ := deserScan_bounds (bytesFrom s .tree 0 (min s.treeLen.toNat 512)) 1 0 [] 0
  cases hscan : scanTreeMem s with
  | ok p =>
    obtain ⟨t, he, ht⟩ := exec_deser_of_scan hscan
    have hp := hle p hscan
    rw [length_bytesFrom, Nat.zero_add] at hp
    have hcomp := ht.completed
    rw [← ht.used, BitVec.ofNat_toNat] at hcomp
    exact ⟨t, he, ht.codes, .inl ⟨ht.ok, ht.valid, hcomp, ht.used.trans_le hp⟩⟩
  | error d =>
    obtain ⟨t, he, ht⟩ := exec_deser_of_scan_error hscan
    obtain ⟨h1, h5⟩ := hdetail d hscan
    have hd : (BitVec.ofNat 32 d).toNat = d := (BitVec.toNat_ofNat ..).trans (Nat.mod_eq_of_lt (by omega))
    exact ⟨t, he, ht.codes, .inr ⟨_, by omega, by omega, ht.failed, ht.valid, ht.nodes, ht.root, ht.cnt, ht.used⟩⟩

/-- Settles O49: DESER follows the pass, and the cases spelled out are the pass over their first bytes. -/
theorem deserDetails : Obligations.DeserDetails := by
  intro s n hn
  have hscan : scanTreeMem s = deserScan (bytesFrom s .tree 0 n) 1 0 [] 0 := by rw [hn]
  have hfail : ∀ d, deserScan (bytesFrom s .tree 0 n) 1 0 [] 0 = .error d →
      ∃ t, exec .deser s = .next t ∧ Failed s t .corruptFormat (BitVec.ofNat 32 d) := fun d h => by
    obtain ⟨t, he, ht⟩ := exec_deser_of_scan_error (hscan.trans h)
    exact ⟨t, he, ht.failed⟩
  refine ⟨fun p h => ?_, hfail, fun h0 => hfail 1 ?_, fun h1 hm0 hm1 => hfail 2 ?_, fun h1 hm => hfail 1 ?_,
    fun h2 hm hy => hfail 3 ?_, fun h5 hm hml hy hmr hdup => hfail 4 ?_, fun h256 hm => hfail 5 ?_⟩
  · obtain ⟨t, he, ht⟩ := exec_deser_of_scan (hscan.trans h)
    exact ⟨t, he, ht.used, ht.completed⟩
  · rw [h0]
    exact deserScan_nil
  · obtain ⟨k, rfl⟩ := Nat.exists_eq_add_of_le' h1
    rw [bytesFrom_succ, deserScan_badMarker hm0 hm1]
  · rw [h1, bytesFrom_succ, hm]
    exact deserScan_leaf_cut (by decide)
  · obtain ⟨k, rfl⟩ := Nat.exists_eq_add_of_le' h2
    rw [bytesFrom_succ, bytesFrom_succ, hm, deserScan_leaf (by decide), if_pos hy]
  · obtain ⟨k, rfl⟩ := Nat.exists_eq_add_of_le' h5
    simp only [bytesFrom_succ, Nat.zero_add, Nat.reduceAdd, hm, hml, hmr, hdup]
    rw [deserScan_internal (by decide), deserScan_leaf (by decide), if_neg (by omega), if_neg List.not_mem_nil,
      deserScan_leaf (by decide), if_neg (by omega), if_pos List.mem_cons_self]
  · obtain ⟨k, rfl⟩ := Nat.exists_eq_add_of_le h256
    rw [bytesFrom_add, bytesFrom_replicate hm]
    exact deserScan_internals rfl (by decide) _ _ _ _

end

/-! ### SER -/

/-- A valid tree is one the machine has (10 R62). -/
theorem exists_hasTree {s : State} (hi : TreeInv s) (hv : s.treeValid = true) : ∃ tr, HasTree tr s := by
  obtain ⟨tr, ht, -, hn, -⟩ := tree?_of_ok (hi.ok hv)
  exact ⟨tr, hv, ht, hn⟩

/-- The artifact ends at three bytes a leaf, less one, and has at most 383 bytes (46 R212). -/
theorem length_artifact {tr : Tree} (hn : tr.symbols.Nodup) :
    tr.serialize.length = 3 * tr.symbols.length - 1 ∧ tr.serialize.length ≤ 383 := by
  have := length_le_of_nodup hn
  have := tr.length_serialize
  omega

/-- SER leaves the bytes past the artifact (46 R211). -/
theorem exec_ser_keeps_rest {s t : State} {tr : Tree} (h : HasTree tr s) (he : exec .ser s = .next t) {a : Nat}
    (ha : tr.serialize.length ≤ a) : t.memRead .tree a = s.memRead .tree a := by
  obtain rfl := Host.Outcome.next.inj (he.symm.trans (exec_ser_of_tree h.valid h.reads))
  change (s.memWrites .tree 0 tr.serialize).memRead .tree a = _
  rw [State.memRead_memWrites, if_neg (by omega)]

theorem exec_ser_completed {s t : State} {tr : Tree} (h : HasTree tr s) (he : exec .ser s = .next t) :
    Completed s t (BitVec.ofNat 32 tr.serialize.length) := by
  obtain rfl := Host.Outcome.next.inj (he.symm.trans (exec_ser_of_tree h.valid h.reads))
  exact completed_done _ rfl rfl

/-- Settles O45: the bytes SER writes are the serialization, which is an artifact of the grammar. -/
theorem serWritesArtifact : Obligations.SerWritesArtifact := by
  refine ⟨fun s hi hv => ?_, fun s hv => ?_⟩
  · obtain ⟨tr, htree⟩ := exists_hasTree hi hv
    obtain ⟨t, he, hbytes, hlen⟩ := exec_ser_artifact htree
    obtain ⟨hn, h383⟩ := length_artifact htree.nodup
    exact ⟨t, tr, _, htree.reads, he, hn, hbytes.symm ▸ tr.serialize_isArtifact,
      fun a ha => exec_ser_keeps_rest htree he ha, hlen, h383, exec_ser_completed htree he, exec_frame he⟩
  · have he : exec .ser s = .next (s.raise .noTree 0#32) := by
      change execSer s = _
      rw [execSer, hv]
      rfl
    exact ⟨_, he, fails_alone s .noTree 0#32⟩

/-- Settles O50: what SER wrote is an artifact that DESER reads whole. -/
theorem serDeserRoundTrip : Obligations.SerDeserRoundTrip := by
  intro s hi hv
  obtain ⟨tr, htree⟩ := exists_hasTree hi hv
  obtain ⟨u, hu, hbytes, hlen⟩ := exec_ser_artifact htree
  have h383 := (length_artifact htree.nodup).2
  obtain ⟨t, ht, hreads, hvalid, -, -, -, hused, hfreqs, hcomp, hk⟩ :=
    deserRebuildsTree u _ tr tr.serialize_isArtifact htree.nodup (size_le_of_nodup htree.nodup) hbytes (by omega)
  have htl : t.treeLen = u.treeLen := hk .treeLen (by decide)
  have hul : t.treeUsed = t.treeLen := BitVec.eq_of_toNat_eq (by rw [hused, htl, hlen])
  refine ⟨t, tr, htree.reads, execAll_cons.2 ⟨u, hu, execAll_cons.2 ⟨t, ht, rfl⟩⟩, hreads, hvalid, hul, ?_, hfreqs⟩
  rw [hcomp.result, ← hlen, ← htl, BitVec.ofNat_toNat]

end Sys2Proof.Safety
end

section
/-! NOP, SRST and INIT (47 R230, R231; 70 R271): what each clears and what it leaves. -/
namespace Sys2Proof.Machine

/-- A zero FREQ table reads 0 at every symbol. -/
theorem freqAt_of_zeroFreq {s : State} (h : s.freq = zeroFreq) (y : Sym) : s.freqAt y = 0#32 := by
  simp [State.freqAt, h, zeroFreq]

/-- A zero CODE table holds no code. -/
theorem codeAt_of_zeroCode {s : State} (h : s.code = zeroCode) (y : Sym) : s.codeAt y = CodeEntry.zero := by
  simp [State.codeAt, h]

theorem engineStep_init {s : State} (hp : s.pending = .init) :
    engineStep s = .next { s with sched := s.sched.pop }.initAction := by
  simp only [engineStep, hp]

end Sys2Proof.Machine

namespace Sys2Proof.Safety
open Sys2Proof.Machine

/-- INIT writes the tables and the schedule but no other piece (70 R271). -/
theorem initAction_frame (s : State) (q : Schedule) :
    KeepsAllBut [.counts, .tree, .codes, .env] s { s with sched := q }.initAction := by
  intro p hp
  cases p with
  | counts | tree | codes | env => exact absurd (by decide) hp
  | bytes m => exact State.memRead_congr (by cases m <;> rfl) rfl
  | queue | ctrl => exact ⟨rfl, rfl⟩
  | _ => rfl

/-- Settles O6: the engine's turn runs INIT, which clears the three tables and BUSY and keeps the rest. -/
theorem initClearsTables : Obligations.InitClearsTables := by
  intro s ht hp
  refine ⟨{ s with sched := s.sched.pop }.initAction, ?_, rfl, freqAt_of_zeroFreq rfl, nodeAt_zeroNodes,
    codeAt_of_zeroCode rfl, rfl, rfl, rfl, rfl, rfl, rfl, rfl, rfl, rfl, rfl, rfl, rfl, rfl, rfl, rfl,
    initAction_frame s _⟩
  rw [step, if_pos ht, engineStep_init hp]

/-- A word of format N with a nonzero reserved field fails with ILLEGAL_CMD (30 R113, R120). -/
theorem runWord_reservedField {w : Word} {i : Instr} (hi : i.reserved = BitVec.allOnes 24)
    (hop : w.extractLsb' 0 8 = i.opcode) (hres : w.extractLsb' 8 24 ≠ 0#24) (s : State) :
    ∃ t, runWord w s = .next t ∧ Failed s t .illegalCmd 0#32 := by
  have hd := decode_of_opcode (i := i) hop
  rw [hi, BitVec.and_allOnes, if_neg hres] at hd
  exact ⟨_, runWord_illegal hd s, (fails_alone ..).1⟩

/-- Settles O20: all of format N's field is reserved, and the command is its completion alone. -/
theorem nopCompletes : Obligations.NopCompletes :=
  ⟨rfl, fun _ => runWord_reservedField (i := .nop) rfl,
    fun s => ⟨s.done 0#32, rfl, completed_done _ rfl rfl, exec_frame (i := .nop) rfl⟩⟩

/-- SRST leaves no bit of STATUS set where CTRL is 0 (47 R231). -/
theorem statusWord_softReset {s : State} (hd : s.doneIe = false) (he : s.errIe = false) :
    (s.softReset.done 0#32).statusWord = 0#32 := by
  have hirq : (s.softReset.done 0#32).irq = false := by simp [State.irq, State.softReset, hd, he]
  rw [statusWord_eq, hirq]
  simp [State.softReset]

/-- Settles O21: the cleared fields and the completion are read off, and the frame says what SRST keeps. -/
theorem srstClears : Obligations.SrstClears := by
  refine ⟨rfl, fun _ => runWord_reservedField (i := .srst) rfl, fun s => ?_⟩
  exact ⟨_, exec_srst s, fun y => ⟨freqAt_of_zeroFreq rfl y, codeAt_of_zeroCode rfl y⟩, nodeAt_zeroNodes,
    rfl, rfl, rfl, rfl, rfl, rfl, rfl, rfl, rfl, rfl, rfl, rfl, rfl, rfl, rfl, rfl, rfl,
    statusWord_softReset, exec_frame (exec_srst s)⟩

end Sys2Proof.Safety
end

section
/-! A data access while BUSY, and the level of `irq` (60 R249, R255; 70 R281, R282). -/
namespace Sys2Proof.Machine

theorem State.busRead_of_violation {s : State} {a : Offset} {l : Loc} (ht : s.target a = some l)
    (hv : s.violates l = true) : s.busRead a = (.word 0#32, s.recordBusyViolation) := by
  simp [State.busRead, ht, hv]

theorem State.busWrite_of_violation {s : State} {a : Offset} {l : Loc} (d : Word) (ht : s.target a = some l)
    (hv : s.violates l = true) : s.busWrite a d = (.ok, s.recordBusyViolation) := by
  simp [State.busWrite, ht, hv]

/-- Only a first error is recorded (60 R249). -/
theorem State.recordBusyViolation_of_error {s : State} (h : s.errFirst ≠ .noError) : s.recordBusyViolation = s := by
  rw [State.recordBusyViolation, if_neg h, if_neg h]

/-- A register stands only in the register file (20 R83). -/
theorem regAt_of_locate {p : Params} {n : Nat} {r : Reg} (h : locate p n = some (.reg r)) : regAt (n / 4) = some r := by
  by_cases hn : n < 0x400
  · rw [locate_reg p hn] at h
    simpa using h
  · rw [locate, if_neg hn] at h
    repeat' split at h
    all_goals cases h

end Sys2Proof.Machine

namespace Sys2Proof.Safety
open Sys2Proof.Machine

/-- The `ctl` registers of the register file stand at the `ctl` offsets. -/
theorem regAt_isCtl : ∀ k < 18, (regAt k).any (fun r => (Loc.reg r).isCtl) = true → 4 * k ∈ ctlOffsets := by
  decide

/-- What stands at an aligned offset that is not a `ctl` offset is no `ctl` register (70 R281). -/
theorem isCtl_of_locate {p : Params} {n : Nat} {l : Loc} (h : locate p n = some l) (h4 : n % 4 = 0)
    (hn : n ∉ ctlOffsets) : l.isCtl = false := by
  cases l with
  | reg r =>
    have hr := regAt_of_locate h
    have hctl := regAt_isCtl _ (regAt_lt hr)
    rw [Nat.mul_div_cancel' (Nat.dvd_of_mod_eq_zero h4), hr] at hctl
    exact Bool.eq_false_iff.2 fun hc => hn (hctl hc)
  | freq | node | code | bytes => rfl

/-- Settles O52: what stands at such an offset is no `ctl` register, so either access only records the violation. -/
theorem busyViolationIsDiscarded : Obligations.BusyViolationIsDiscarded := by
  intro s a d hl hp h4 hm hn
  obtain ⟨l, hloc, -, -⟩ := locate_mapped hl h4 hm
  have ht : s.target a = some l := (s.target_aligned h4).trans hloc
  have hv : s.violates l = true := by
    rw [State.violates, busy_iff.2 hp, isCtl_of_locate hloc h4 hn]
    rfl
  refine ⟨_, s.busRead_of_violation ht hv, s.busWrite_of_violation d ht hv, rfl,
    State.recordBusyViolation_of_error, fun h => ?_⟩
  simp [h, ErrCode.byte]

/-- Settles O58: the two terms of the level, and STATUS bit by bit. -/
theorem irqLevel : Obligations.IrqLevel := by
  refine fun s => ⟨?_, ?_⟩
  · simp only [State.irq, errAny_eq, Bool.or_eq_true, Bool.and_eq_true, decide_eq_true_eq]
  · rw [statusWord_eq]
    simp only [BitVec.getLsbD_append]
    simp

end Sys2Proof.Safety
end
